-- ==== Sys2Proof/Word.lean ====
section
/-! DEFINITION. The bit-vector types of the register window, buffer memory and the XIF port (R7, R29, R48). -/

namespace Sys2Proof

/-- One byte of buffer memory (R29). -/
abbrev Byte := BitVec 8

/-- A host register or a buffer memory address (R9, R5 `ADDR_W`). -/
abbrev Word := BitVec 32

/-- One unit, held zero-extended to 16 bits (R55). -/
abbrev Unit16 := BitVec 16

/-- An XIF request (R48). -/
abbrev XifRequest := BitVec 20

/-- An XIF response (R48). -/
abbrev XifResponse := BitVec 17

end Sys2Proof
end

