-- ==== Sys2Proof/Config.lean ====
section
/-! DEFINITION. What an implementation or its platform fixes (R5), as plain data, and the free values: constants with
no body, of which nothing can be proved. -/

namespace Sys2Proof

/-- The kind of a buffer memory access that `MEM_ADMIT` is asked about (R32). -/
inductive AccessKind where
  | read
  | write
  deriving DecidableEq, Repr

/-- Accesses `MEM_ADMIT` answers false to: those of `bytes` bytes and of this kind whose address lies from `first` to
`last` (R5, R32; log entry 18). -/
structure DeniedRange where
  first : Word
  last  : Word
  bytes : Nat
  kind  : AccessKind
  deriving DecidableEq, Repr

/-- The parameters of R5 that are numbers or a map; `PEER` is `State.peer`. An input of the run that no step changes
(log entry 3). -/
structure Params where
  /-- `FIFO_LIMIT`, the in-flight cap. -/
  fifoLimit : Nat
  /-- `DUMMY`, the unit sent when the transmit buffer is absent. -/
  dummy     : Unit16
  /-- `TX_DEPTH(Width8)`. -/
  txDepth8  : Nat
  /-- `TX_DEPTH(Width16)`. -/
  txDepth16 : Nat
  /-- `RX_DEPTH(Width8)`. -/
  rxDepth8  : Nat
  /-- `RX_DEPTH(Width16)`. -/
  rxDepth16 : Nat
  /-- The accesses `MEM_ADMIT` answers false to. -/
  denied    : List DeniedRange
  /-- `REG_BASE`, where the register window sits. -/
  regBase   : Word
  deriving DecidableEq, Repr

/-- Free value: the byte of buffer memory at an address that nothing has written ("unspecified (oracle)", R106; log
entry 5). -/
opaque Config.memInit : Nat → Byte

/-- Free value: what the peer returns at step `n` while a unit is shifted out, when `State.peer` lists no answer (R87;
log entry 6). -/
opaque Config.peer : Nat → Unit16 → Unit16

/-- Free value: which of the agents that can move moves at step `n`, when `State.turns` is empty (R79; log entry 2). -/
opaque Config.pickTurn : Nat → Nat

/-- Free value: a unit of the transceiver that does not fit the width or depth a configuration action sets, by step, place and
position (R80; log entry 8). -/
opaque Config.heldUnit : Nat → Nat → Nat → Unit16

/-- Free value: how many units a queue holds after a configuration action sets a depth it does not fit, by step and place
(R25; log entry 8). -/
opaque Config.heldCount : Nat → Nat → Nat

end Sys2Proof
end

