-- ==== Sys2Proof/Syntax.lean ====
section
/-! DEFINITION. The six encoded operations (R51), the encoded words with the port they stand on (R45, R50), and the
names under which a word is rejected. -/

namespace Sys2Proof

/-- The opcode map, one constructor per row (R51). -/
inductive Instr where
  /-- XCHG, the single-unit exchange (R59). -/
  | xchg
  /-- XBUF, the buffered exchange; which buffers are present (R63). -/
  | xbuf (txp rxp : Bool)
  /-- POLL_TXFULL (R81). -/
  | pollTxfull
  /-- POLL_RXEMPTY (R82). -/
  | pollRxempty
  /-- WRITE_UNIT with its fields W16 and WDATA (R83). -/
  | writeUnit (w16 : Bool) (wdata : Unit16)
  /-- READ_UNIT with its field W16 (R84). -/
  | readUnit (w16 : Bool)
  deriving DecidableEq, Repr

/-- A word with the port that carries it: a decoder tells a format by its port, not by its bits (R50). -/
inductive Encoded where
  /-- A word written to register CMD. -/
  | cmd (word : Word)
  /-- A request on the transceiver interface. -/
  | xif (word : XifRequest)
  deriving DecidableEq, Repr

/-- Why a word decodes to no operation. -/
inductive DecodeError where
  /-- A reserved CMD word (R49). -/
  | reservedCmd
  /-- The XIF word of zeros: no transaction (R48, XOP 0b000). -/
  | noTransaction
  /-- An XIF word with XOP 0b101 to 0b111 or a non-zero fixed field (R49). -/
  | reservedXif
  deriving DecidableEq, Repr

end Sys2Proof
end

