-- ==== Sys2Proof/Machine/State.lean ====
section
/-! DEFINITION. The state of the block, its transceiver, its buffer memory and the inputs of the run, as plain data
(R9 to R28), the reasons a step can stop, and the state after reset (R106). -/

namespace Sys2Proof.Machine

/-- The fault codes of R93. Each is safe: the model stops where the source calls the behaviour undefined or the
hardware would lose data. A step that raises one records it in `State.faults` (R94); every later step but a reset
answers it. -/
inductive Fault where
  /-- Code 1: a host write of CMD while BUSY (R31). Raised by the host's turn and by XCHG and XBUF. Safe. -/
  | cmdWhileBusy
  /-- Code 2: `cfg_mode16` changes while BUSY (R57). Raised by the host's configuration action. Safe. -/
  | modeChangedWhileBusy
  /-- Code 3: a Width16 XBUF with a present buffer at an odd address and a count above 0 (R63). Raised by XBUF. Safe. -/
  | misalignedBuffer
  /-- Code 4: WRITE_UNIT with the transmit side full (R83). Raised by WRITE_UNIT, also inside an engine step. Safe. -/
  | txWriteWhenFull
  /-- Code 5: READ_UNIT with the receive side empty (R84). Raised by READ_UNIT. Safe. -/
  | rxReadWhenEmpty
  /-- Code 6: a pop while the in-flight count is 0 (R67). Raised by the engine step of A_POP. Safe. -/
  | inflightUnderflow
  /-- Code 7: a SHIFT with the receive side full (R86). Raised by the transceiver's SHIFT. Safe. -/
  | rxOverrun
  deriving DecidableEq, Repr

/-- The refusal reasons of R95, one of the model's own, and the host's `notModelled`. Each is safe: the model gives the
input no meaning. A step that refuses sets `State.refused` (R95); every later step but a reset answers it. -/
inductive Refusal where
  /-- An instruction that has no meaning yet. Raised by no arm of this model. Safe. -/
  | notModelled (mnemonic : String)
  /-- A host access to the register window that is not a 4-byte aligned access at offset 0x00 to 0x1C (R30, R31). Raised
  by the host's turn. Safe. -/
  | badHostAccess
  /-- A reserved CMD word written while BUSY = 0 (R49). Raised by the host's turn. Safe. -/
  | reservedCmd
  /-- A wrapper pseudo-operation with `cfg_mode16 = 1` (R76, R77). Raised by the host's turn. Safe. -/
  | wrapperInWidth16
  /-- Parameters that fail R6. Raised by any step. Safe. -/
  | badConfig
  /-- A reserved XIF request (R49: "outside the block"). Raised by an engine step that is given one from outside
  (log entry 10). Safe. -/
  | reservedXif
  deriving DecidableEq, Repr

/-- The unit width (R54, R55). -/
inductive Mode where
  | width8
  | width16
  deriving DecidableEq, Repr

/-- The engine's phases (R20). Code 7 is never entered, so it is no value here. -/
inductive Phase where
  | idle
  | waitTx
  | aPush
  | aPop
  | bDrain
  | sWaitTx
  | sWaitRx
  deriving DecidableEq, Repr

/-- `E.op`: the current or last command (R19). -/
inductive Command where
  | xchg
  | xbuf
  deriving DecidableEq, Repr

/-- `E.size`: the unit size in bytes, 1 or 2 (R19, R55). -/
inductive UnitSize where
  | one
  | two
  deriving DecidableEq, Repr

/-- The host registers with storage (R9); TXDATA and RXDATA hold bits `[15:0]` only (R14, R15; log entry 15). -/
structure HostRegs where
  txaddr : Word
  rxaddr : Word
  len    : Word
  txdata : Unit16
  rxdata : Unit16
  /-- STATUS.DONE (R16). -/
  done   : Bool
  deriving DecidableEq, Repr

/-- The engine's internal state (R19). -/
structure Engine where
  phase    : Phase
  op       : Command
  m        : Mode
  size     : UnitSize
  count    : Word
  sent     : Word
  inflight : BitVec 8
  txptr    : Word
  rxptr    : Word
  txp      : Bool
  rxp      : Bool
  txunit   : Unit16
  deriving DecidableEq, Repr

/-- The transceiver's state (R25): oldest unit first. -/
structure Transceiver where
  txq : List Unit16
  sr  : Option Unit16
  rxq : List Unit16
  deriving DecidableEq, Repr

/-- One member of the fault set with what R93 records beside the code: the engine phase and the step. -/
structure FaultRecord where
  code  : Fault
  phase : Phase
  step  : Nat
  deriving DecidableEq, Repr

/-- The eight registers of the host window (R9). -/
inductive HostReg where
  | cmd
  | txaddr
  | rxaddr
  | len
  | txdata
  | rxdata
  | status
  | result
  deriving DecidableEq, Repr

/-- What the host does in one step: an access to the register window at a host address (R30, R31, R52), an access to
buffer memory (R40; log entry 17), a configuration action (R57, R91), or a pseudo-operation, which stands for its
expansion (R53, R76, R77). Host variables are numbered. -/
inductive HostOp where
  /-- A store of `bytes` bytes in the register window; `WR REG, value` is one of 4 bytes. -/
  | store (bytes : Nat) (addr value : Word)
  /-- A load of `bytes` bytes from the register window into a host variable (`RD REG -> name`). -/
  | load (bytes : Nat) (addr : Word) (name : Nat)
  /-- A 4-byte load of which the variable takes the low byte (the result `r[7:0]` of R76). -/
  | loadLow8 (addr : Word) (name : Nat)
  /-- `WAIT REG.FIELD = value`: load until bits `[hi:lo]` equal `value`. -/
  | wait (addr : Word) (hi lo : Nat) (value : Word)
  /-- The host stores bytes in buffer memory from an address on. -/
  | memStore (addr : Word) (bytes : List Byte)
  /-- The host loads `n` bytes of buffer memory, little-endian, into a variable. -/
  | memLoad (addr : Word) (n : Nat) (name : Nat)
  /-- The configuration action that sets `cfg_mode16`. -/
  | configure (mode16 : Bool)
  /-- `XCHG1 value -> name` (R53). -/
  | xchg1 (value : Word) (name : Nat)
  /-- `XBUFW tx_addr, byte_len, rx_addr, present -> sent` (R53). -/
  | xbufw (txAddr byteLen rxAddr : Word) (txp rxp : Bool) (name : Nat)
  /-- `exchange8bit(b) -> name` (R76). -/
  | exchange8bit (b : Byte) (name : Nat)
  /-- `exchangeBuffer8bit(tx?, count, rx?) -> sent` (R77). -/
  | exchangeBuffer8bit (tx : Option Word) (count : Word) (rx : Option Word) (name : Nat)
  deriving DecidableEq, Repr

/-- Who moves next (R79): an agent, or the reset of R106. -/
inductive Turn where
  | host
  | engine
  | load
  | shift
  | reset
  deriving DecidableEq, Repr

/-- The peer's behaviour (R87): the loopback configuration (R88), or the answers still to come, oldest first, after which
each answer is a free value. -/
inductive Peer where
  | loopback
  | answers (units : List Unit16)
  deriving DecidableEq, Repr

/-- A host variable of R52. -/
structure HostVar where
  name  : Nat
  value : Word
  deriving DecidableEq, Repr

/-- The whole machine (R9 to R28), its parameters (R5) and the inputs of the run. -/
structure State where
  regs      : HostRegs
  eng       : Engine
  xcvr      : Transceiver
  /-- The response port of the transceiver interface (R48; log entry 9). -/
  xifResp   : XifResponse
  /-- The configuration input `cfg_mode16` (R18). -/
  cfgMode16 : Bool
  /-- Buffer memory (R27): the bytes written so far, by rising address. -/
  mem       : List Host.Cell
  /-- The fault set `F` (R28), at most one record a code. -/
  faults    : List FaultRecord
  /-- `REFUSED` (R28), with its reason; `none` is false. -/
  refused   : Option Refusal
  /-- The parameters of the run (R5). -/
  params    : Params
  /-- The engine is stuck at a buffer access that `MEM_ADMIT` refuses (R32; log entry 7). -/
  stuck     : Bool
  /-- The number of steps taken (R93; log entry 13). -/
  stepNo    : Nat
  /-- Who moves next, first entry first (R79; log entry 2). -/
  turns     : List Turn
  /-- What the host has still to do (R52; log entry 12). -/
  hostProg  : List HostOp
  /-- The host's variables (R52). -/
  hostVars  : List HostVar
  /-- The peer (R87). -/
  peer      : Peer
  /-- A request word given to the idle engine from outside the machine, `none` in every state a run from reset reaches
  (log entries 10, 12). -/
  placed    : Option XifRequest
  deriving DecidableEq, Repr

/-- The host registers at reset (R106). -/
def HostRegs.reset : HostRegs :=
  { txaddr := 0#32, rxaddr := 0#32, len := 0#32, txdata := 0#16, rxdata := 0#16, done := false }

/-- The engine at reset (R106). -/
def Engine.reset : Engine :=
  { phase := .idle, op := .xchg, m := .width8, size := .one, count := 0#32, sent := 0#32, inflight := 0#8,
    txptr := 0#32, rxptr := 0#32, txp := false, rxp := false, txunit := 0#16 }

/-- The transceiver at reset (R106). -/
def Transceiver.reset : Transceiver := { txq := [], sr := none, rxq := [] }

/-- DESIGN CHOICE, unsafe (log entry 3): the parameters at `State.reset` are the common configuration of
95_test_vectors.md section 0, since the spec leaves them OPEN (R5). -/
def defaultParams : Params :=
  { fifoLimit := 6, dummy := 0x5AC3#16, txDepth8 := 8, txDepth16 := 8, rxDepth8 := 8, rxDepth16 := 8, denied := [],
    regBase := 0#32 }

/-- The machine right after reset (R106). What R106 does not reset, and the inputs of the run, hold the values that log
entries 2 to 7, 9, 10, 12, 13 and 24 name. -/
def State.reset : State :=
  { regs := HostRegs.reset, eng := Engine.reset, xcvr := Transceiver.reset, xifResp := 0#17, cfgMode16 := false,
    mem := [], faults := [], refused := none, params := defaultParams, stuck := false, stepNo := 0, turns := [],
    hostProg := [], hostVars := [], peer := .answers [], placed := none }

end Sys2Proof.Machine
end

