-- ==== Sys2Proof/Machine/Ops.lean ====
section
/-! DEFINITION. The named operations over memory and state: buffer memory, the one operation that raises a fault (R94),
the one that refuses (R95), completion (R21), reset (R106), and the updates of single fields. -/

namespace Sys2Proof.Machine

/-! ### Buffer memory (R27, R33) -/

/-- The byte written last at an address, `none` where nothing has been written. -/
def memLookup : List Host.Cell → Nat → Option Byte
  | [], _ => none
  | (b, v) :: rest, a => if b = a then some v else memLookup rest a

/-- One byte stored, the list kept in rising order with one entry an address. -/
def memSet : List Host.Cell → Nat → Byte → List Host.Cell
  | [], a, v => [(a, v)]
  | (b, w) :: rest, a, v =>
    if a < b then (a, v) :: (b, w) :: rest
    else if a = b then (a, v) :: rest
    else (b, w) :: memSet rest a v

/-- Every address of the list lies above `lo` and within the 32-bit space, and the addresses rise. -/
def memWfFrom : Nat → List Host.Cell → Bool
  | _, [] => true
  | lo, (a, _) :: rest => decide (lo ≤ a) && decide (a < 2 ^ 32) && memWfFrom (a + 1) rest

/-- The canonical form: addresses strictly rising and inside the space. An unlisted address reads as `none`, and a listed
one never does (log entry 5). -/
def memWf (m : List Host.Cell) : Bool := memWfFrom 0 m

/-- The byte at an address: what was written last, else the free value of buffer memory's contents (R106). -/
def memByte (m : List Host.Cell) (a : Word) : Byte := (memLookup m a.toNat).getD (Config.memInit a.toNat)

/-- The number of bytes of `E.size` (R19). -/
def sizeBytes : UnitSize → Nat
  | .one => 1
  | .two => 2

/-- `MemRead(addr, n)`, little-endian, zero-extended (R8, R33); the address wraps (R36). -/
def memRead (m : List Host.Cell) (a : Word) : UnitSize → Unit16
  | .one => (memByte m a).setWidth 16
  | .two => memByte m (a + 1#32) ++ memByte m a

/-- `MemWrite(addr, n, v)`, the low bytes of `v`, little-endian (R8, R33). -/
def memWrite (m : List Host.Cell) (a : Word) (u : Unit16) : UnitSize → List Host.Cell
  | .one => memSet m a.toNat (u.extractLsb' 0 8)
  | .two => memSet (memSet m a.toNat (u.extractLsb' 0 8)) (a + 1#32).toNat (u.extractLsb' 8 8)

/-- The host's store of bytes from an address on, in one step (R40). -/
def memStoreBytes (m : List Host.Cell) (a : Word) : List Byte → List Host.Cell
  | [] => m
  | v :: rest => memStoreBytes (memSet m a.toNat v) (a + 1#32) rest

/-- The host's load of `n` bytes, little-endian, of which a variable keeps 32 bits (R40). -/
def memLoadBytes (m : List Host.Cell) (a : Word) : Nat → Word
  | 0 => 0#32
  | n + 1 => (memLoadBytes m (a + 1#32) n <<< 8) ||| (memByte m a).setWidth 32

/-- One denied range covers the access. -/
def deniedBy (a : Word) (n : Nat) (kind : AccessKind) (d : DeniedRange) : Bool :=
  decide (d.first ≤ a) && decide (a ≤ d.last) && decide (d.bytes = n) && decide (d.kind = kind)

/-- `MEM_ADMIT(addr, n, kind)` (R5, R32). -/
def memAdmit (p : Params) (a : Word) (size : UnitSize) (kind : AccessKind) : Bool :=
  !(p.denied.any (deniedBy a (sizeBytes size) kind))

/-! ### Updates of one field -/

/-- `phase <- P` (R7). -/
def State.setPhase (s : State) (p : Phase) : State := { s with eng := { s.eng with phase := p } }

/-- The response of a transaction (R48). -/
def State.setResp (s : State) (r : XifResponse) : State := { s with xifResp := r }

/-- The transmit queue. -/
def State.setTxq (s : State) (q : List Unit16) : State := { s with xcvr := { s.xcvr with txq := q } }

/-- The receive queue. -/
def State.setRxq (s : State) (q : List Unit16) : State := { s with xcvr := { s.xcvr with rxq := q } }

/-- Buffer memory. -/
def State.setMem (s : State) (m : List Host.Cell) : State := { s with mem := m }

/-- The engine is stuck from here on (R32; log entry 7). -/
def State.setStuck (s : State) : State := { s with stuck := true }

/-- The turns still to come. -/
def State.setTurns (s : State) (ts : List Turn) : State := { s with turns := ts }

/-- The host operations still to come. -/
def State.setProg (s : State) (ops : List HostOp) : State := { s with hostProg := ops }

/-! ### Faults, refusals, completion, reset -/

/-- A fault or a refusal has been recorded: no agent has a step (R94, R95). -/
def State.halted (s : State) : Bool := !s.faults.isEmpty || s.refused.isSome

/-- One code added to the fault set (R28); a code already there stays as first recorded. -/
def addFault (r : FaultRecord) (fs : List FaultRecord) : List FaultRecord :=
  if fs.any (fun f => decide (f.code = r.code)) then fs else fs ++ [r]

/-- `raise Fault(c)`: the code joins `F` with the phase and the step at which it arose, and nothing else changes (R93,
R94). -/
def raiseFault (c : Fault) (s : State) : State :=
  { s with faults := addFault { code := c, phase := s.eng.phase, step := s.stepNo } s.faults }

/-- `refuse(reason)`: the mark is set, and nothing else changes (R95). -/
def refuse (r : Refusal) (s : State) : State := { s with refused := some r }

/-- A step that may fault, settled: a fault is recorded on the state before the step (R94). -/
def settle (s : State) : Except Fault State → State
  | .ok t => t
  | .error c => raiseFault c s

/-- `complete()`: back to IDLE with DONE set, nothing else (R21). -/
def State.complete (s : State) : State :=
  { s with eng := { s.eng with phase := .idle }, regs := { s.regs with done := true } }

/-- Reset of the block and its transceiver (R106, R107): `cfg_mode16`, buffer memory and the inputs of the run stay (log
entry 13). -/
def resetBlock (s : State) : State :=
  { s with regs := HostRegs.reset, eng := Engine.reset, xcvr := Transceiver.reset, xifResp := 0#17, faults := [],
           refused := none, stuck := false }

/-- One step has been taken; a step that raised or refused counts nothing (R94). -/
def State.tick (s : State) : State := if s.halted then s else { s with stepNo := s.stepNo + 1 }

/-- The host's operation is done, unless it raised or refused (R94). -/
def State.popProg (ops : List HostOp) (s : State) : State := if s.halted then s else s.setProg ops

/-- The request given from outside has been issued, unless that raised or refused (R94). -/
def State.popPlaced (s : State) : State := if s.halted then s else { s with placed := none }

/-- Go on from a next state; a fault or a refusal stays. -/
def onNext (o : Host.Outcome State Fault Refusal) (f : State → State) : Host.Outcome State Fault Refusal :=
  match o with
  | .next t => .next (f t)
  | .fault c => .fault c
  | .refused r => .refused r

end Sys2Proof.Machine
end

