-- ==== Sys2Proof/Machine/Flags.lean ====
section
/-! DEFINITION. Every flag (R24), the STATUS word (R16), and the fields of an XIF response (R48). -/

namespace Sys2Proof.Machine

/-- `E.phase` as its 3-bit code (R20). -/
def phaseCode : Phase → BitVec 3
  | .idle => 0#3
  | .waitTx => 1#3
  | .aPush => 2#3
  | .aPop => 3#3
  | .bDrain => 4#3
  | .sWaitTx => 5#3
  | .sWaitRx => 6#3

/-- STATUS.BUSY: `E.phase != IDLE` (R16). -/
def busy (s : State) : Bool := decide (s.eng.phase ≠ .idle)

/-- STATUS.MODE: `E.m` (R16). -/
def modeBit : Mode → Bool
  | .width8 => false
  | .width16 => true

/-- `currentMode()` (R54). -/
def currentMode (s : State) : Mode := if s.cfgMode16 then .width16 else .width8

/-- `TX_DEPTH(m)` (R5). -/
def txDepth (p : Params) : Mode → Nat
  | .width8 => p.txDepth8
  | .width16 => p.txDepth16

/-- `RX_DEPTH(m)` (R5). -/
def rxDepth (p : Params) : Mode → Nat
  | .width8 => p.rxDepth8
  | .width16 => p.rxDepth16

/-- `T.txfull = (|T.txq| = TX_DEPTH(m))`, `m` the value of `cfg_mode16` (R25). -/
def txfull (s : State) : Bool := decide (s.xcvr.txq.length = txDepth s.params (currentMode s))

/-- `T.rxempty = (|T.rxq| = 0)` (R25). -/
def rxempty (s : State) : Bool := decide (s.xcvr.rxq.length = 0)

/-- The receive side is full: the condition of `RX_OVERRUN` (R86). -/
def rxfull (s : State) : Bool := decide (s.xcvr.rxq.length = rxDepth s.params (currentMode s))

/-- The STATUS word: INFLIGHT `[15:8]`, MODE `[5]`, PHASE `[4:2]`, DONE `[1]`, BUSY `[0]`, the rest 0 (R16). -/
def statusWord (s : State) : Word :=
  0#16 ++ s.eng.inflight ++ 0#2 ++ BitVec.ofBool (modeBit s.eng.m) ++ phaseCode s.eng.phase ++
    BitVec.ofBool s.regs.done ++ BitVec.ofBool (busy s)

/-- A response: RDATA `[16:1]`, FLAG `[0]` (R48). -/
def respWord (flag : Bool) (rdata : Unit16) : XifResponse := rdata ++ BitVec.ofBool flag

/-- FLAG of a response. -/
def respFlag (r : XifResponse) : Bool := r.getLsbD 0

/-- RDATA of a response. -/
def respData (r : XifResponse) : Unit16 := r.extractLsb' 1 16

end Sys2Proof.Machine
end

