-- ==== Sys2Proof/Machine/Operands.lean ====
section
/-! DEFINITION. Every operand form: unit size and count (R55, R56), the transmit source and the receive sink of a
buffered exchange (R66, R68), the register a host access names (R9, R30), and the test of the parameters (R6). -/

namespace Sys2Proof.Machine

/-- `size(m)` (R55). -/
def sizeOfMode : Mode → UnitSize
  | .width8 => .one
  | .width16 => .two

/-- `unitbits(m)` (R55). -/
def unitbits (m : Mode) : Nat := 8 * sizeBytes (sizeOfMode m)

/-- `trunc(m, v)`, zero-extended to 16 bits (R55). -/
def trunc : Mode → Unit16 → Unit16
  | .width8, v => (v.extractLsb' 0 8).setWidth 16
  | .width16, v => v

/-- `units_of(len, m)`: the odd trailing byte is dropped in Width16 (R56). -/
def unitsOf (len : Word) : Mode → Word
  | .width8 => len
  | .width16 => len >>> 1

/-- A pointer moved on by one unit, modulo `2^32` (R36, R69). -/
def nextUnit (a : Word) (size : UnitSize) : Word := a + BitVec.ofNat 32 (sizeBytes size)

/-- The test of R6, for both modes. -/
def paramsAdmitted (p : Params) : Bool :=
  decide (1 ≤ p.fifoLimit) && decide (p.fifoLimit ≤ 255) && decide (p.fifoLimit ≤ p.txDepth8) &&
    decide (p.fifoLimit ≤ p.txDepth16) && decide (p.fifoLimit ≤ p.rxDepth8) && decide (p.fifoLimit ≤ p.rxDepth16)

/-- A present buffer of a Width16 XBUF starts at an odd address (R34, R63). -/
def misaligned (txp rxp : Bool) (m : Mode) (s : State) : Bool :=
  modeBit m && ((txp && s.regs.txaddr.getLsbD 0) || (rxp && s.regs.rxaddr.getLsbD 0))

/-- `tx_unit()`: the unit at `E.txptr`, or DUMMY without a memory access when the buffer is absent (R66); `none` where
`MEM_ADMIT` refuses the read (R32). -/
def txUnit (s : State) : Option Unit16 :=
  if s.eng.txp then
    if memAdmit s.params s.eng.txptr s.eng.size .read then some (memRead s.mem s.eng.txptr s.eng.size) else none
  else some (trunc s.eng.m s.params.dummy)

/-- `E.txptr` after a push: it moves only when the buffer is present (R65, R69). -/
def txptrAfterPush (e : Engine) : Word := if e.txp then nextUnit e.txptr e.size else e.txptr

/-- `rx_sink(r)`: the unit written at `E.rxptr`, which moves on, or discarded when the buffer is absent (R68, R69);
`none` where `MEM_ADMIT` refuses the write (R32). -/
def rxSink (r : Unit16) (s : State) : Option State :=
  if s.eng.rxp then
    if memAdmit s.params s.eng.rxptr s.eng.size .write then
      some { s with mem := memWrite s.mem s.eng.rxptr r s.eng.size,
                    eng := { s.eng with rxptr := nextUnit s.eng.rxptr s.eng.size } }
    else none
  else some s

/-- The byte offset of a host register (R9). -/
def regOffset : HostReg → Word
  | .cmd => 0x00#32
  | .txaddr => 0x04#32
  | .rxaddr => 0x08#32
  | .len => 0x0C#32
  | .txdata => 0x10#32
  | .rxdata => 0x14#32
  | .status => 0x18#32
  | .result => 0x1C#32

/-- The register of a word number 0 to 7 (R9). -/
def regOfIndex : Nat → Option HostReg
  | 0 => some .cmd
  | 1 => some .txaddr
  | 2 => some .rxaddr
  | 3 => some .len
  | 4 => some .txdata
  | 5 => some .rxdata
  | 6 => some .status
  | 7 => some .result
  | _ => none

/-- The register an access names, `none` unless it is 4 bytes at an offset `o` with `o mod 4 = 0` and `o <= 0x1C`
(R30, R31). -/
def regAtOffset (bytes : Nat) (o : Word) : Option HostReg :=
  if bytes = 4 ∧ o.toNat % 4 = 0 ∧ o.toNat ≤ 0x1C then regOfIndex (o.toNat / 4) else none

/-- The register at a host address: its offset is counted from `REG_BASE` (R9; log entry 16). -/
def regAt (p : Params) (bytes : Nat) (addr : Word) : Option HostReg := regAtOffset bytes (addr - p.regBase)

/-- The host address of a register (R9, R52). -/
def regAddr (p : Params) (r : HostReg) : Word := p.regBase + regOffset r

/-- A host read of a register (R10 to R17). -/
def readReg (s : State) : HostReg → Word
  | .cmd => 0#32
  | .txaddr => s.regs.txaddr
  | .rxaddr => s.regs.rxaddr
  | .len => s.regs.len
  | .txdata => s.regs.txdata.setWidth 32
  | .rxdata => s.regs.rxdata.setWidth 32
  | .status => statusWord s
  | .result => s.eng.sent

/-- A host write of a register other than CMD: the read-only registers take no effect (R31). -/
def writeReg (r : HostReg) (v : Word) (s : State) : State :=
  match r with
  | .cmd => s
  | .txaddr => { s with regs := { s.regs with txaddr := v } }
  | .rxaddr => { s with regs := { s.regs with rxaddr := v } }
  | .len => { s with regs := { s.regs with len := v } }
  | .txdata => { s with regs := { s.regs with txdata := v.extractLsb' 0 16 } }
  | .rxdata => s
  | .status => s
  | .result => s

/-- Bits `[hi:lo]` of a register value (R7). -/
def fieldOf (v : Word) (hi lo : Nat) : Word := (v >>> lo) &&& BitVec.ofNat 32 (2 ^ (hi + 1 - lo) - 1)

/-- A host variable set (R52). -/
def setVar (name : Nat) (value : Word) : List HostVar → List HostVar
  | [] => [{ name := name, value := value }]
  | x :: rest => if x.name = name then { name := name, value := value } :: rest else x :: setVar name value rest

/-- The value of a host variable. -/
def getVar (name : Nat) : List HostVar → Option Word
  | [] => none
  | x :: rest => if x.name = name then some x.value else getVar name rest

end Sys2Proof.Machine
end

