-- ==== Sys2Proof/Machine/Xif.lean ====
section
/-! DEFINITION. The four transactions of the transceiver interface (R79 to R84): what each does to the transceiver and
what it answers, used inside the engine's steps, and the meaning of each as an instruction. -/

namespace Sys2Proof.Machine

/-- POLL_TXFULL: FLAG is transmit-full; nothing else (R81). -/
def pollTxfull (s : State) : State := s.setResp (respWord (txfull s) 0#16)

/-- POLL_RXEMPTY: FLAG is receive-empty; nothing else (R82). -/
def pollRxempty (s : State) : State := s.setResp (respWord (rxempty s) 0#16)

/-- WRITE_UNIT: the unit joins the transmit queue in the width of `cfg_mode16` (R83). The rule does not read W16 (log
entry 11). -/
def writeUnit (_w16 : Bool) (wdata : Unit16) (s : State) : Except Fault State :=
  if txfull s then .error .txWriteWhenFull
  else .ok ((s.setTxq (s.xcvr.txq ++ [trunc (currentMode s) wdata])).setResp (respWord false 0#16))

/-- READ_UNIT: the oldest received unit leaves the receive queue (R84). The rule does not read W16 (log entry 11). -/
def readUnit (_w16 : Bool) (s : State) : Except Fault State :=
  match s.xcvr.rxq with
  | [] => .error .rxReadWhenEmpty
  | r :: rest => .ok ((s.setRxq rest).setResp (respWord false r))

/-- Meaning of POLL_TXFULL (R81). -/
def execPollTxfull (s : State) : Host.Outcome State Fault Refusal := .next (pollTxfull s)

/-- Meaning of POLL_RXEMPTY (R82). -/
def execPollRxempty (s : State) : Host.Outcome State Fault Refusal := .next (pollRxempty s)

/-- Meaning of WRITE_UNIT (R83). -/
def execWriteUnit (w16 : Bool) (wdata : Unit16) (s : State) : Host.Outcome State Fault Refusal :=
  .next (settle s (writeUnit w16 wdata s))

/-- Meaning of READ_UNIT (R84). -/
def execReadUnit (w16 : Bool) (s : State) : Host.Outcome State Fault Refusal :=
  .next (settle s (readUnit w16 s))

end Sys2Proof.Machine
end

