-- ==== Sys2Proof/Machine/Xbuf.lean ====
section
/-! DEFINITION. The buffered exchange: acceptance (R63) and the engine's four phases (R64, R65, R67, R70). -/

namespace Sys2Proof.Machine

/-- The engine's fields as `start_xbuf` sets them, the phase apart (R63). -/
def xbufEngine (txp rxp : Bool) (s : State) : Engine :=
  { s.eng with op := .xbuf, m := currentMode s, size := sizeOfMode (currentMode s),
               count := unitsOf s.regs.len (currentMode s), sent := 0#32, inflight := 0#8,
               txptr := s.regs.txaddr, rxptr := s.regs.rxaddr, txp := txp, rxp := rxp }

/-- `start_xbuf(txp, rxp)` after `STATUS.DONE <- 0` (R31, R63): a count of 0 completes at acceptance. -/
def startXbuf (txp rxp : Bool) (s : State) : Except Fault State :=
  if unitsOf s.regs.len (currentMode s) = 0#32 then
    .ok ({ s with eng := xbufEngine txp rxp s }).complete
  else if misaligned txp rxp (currentMode s) s then .error .misalignedBuffer
  else .ok ({ s with regs := { s.regs with done := false }, eng := xbufEngine txp rxp s }.setPhase .waitTx)

/-- Meaning of XBUF: the host's CMD write accepts it, or faults while BUSY or on a misaligned present buffer (R31,
R63). -/
def execXbuf (txp rxp : Bool) (s : State) : Host.Outcome State Fault Refusal :=
  .next (if busy s then raiseFault .cmdWhileBusy s else settle s (startXbuf txp rxp s))

/-- Phase WAITTX: poll until the transmit side is not full (R64). -/
def stepWaitTx (s : State) : State :=
  if respFlag (pollTxfull s).xifResp then pollTxfull s else (pollTxfull s).setPhase .aPush

/-- The counters and the pointer after a push (R65, R69). -/
def countPush (s : State) : State :=
  { s with eng := { s.eng with txptr := txptrAfterPush s.eng, sent := s.eng.sent + 1#32,
                               inflight := s.eng.inflight + 1#8 } }

/-- Phase A_PUSH: the loop test, then one push while under the cap; the drain half follows on every iteration (R65). A
refused read leaves the engine stuck before the WRITE_UNIT (R66). -/
def stepAPush (s : State) : Except Fault State :=
  if s.eng.sent = s.eng.count then .ok (s.setPhase .bDrain)
  else if s.eng.inflight.toNat < s.params.fifoLimit then
    match txUnit s with
    | none => .ok s.setStuck
    | some u =>
      match writeUnit (modeBit s.eng.m) u s with
      | .error c => .error c
      | .ok t => .ok ((countPush t).setPhase .aPop)
  else .ok (s.setPhase .aPop)

/-- The in-flight count after a pop, written when the receive sink has taken the unit (R67, R70). -/
def countPop (s : State) : State := { s with eng := { s.eng with inflight := s.eng.inflight - 1#8 } }

/-- One pop after a poll that saw a unit, in the order of R67 and R70: READ_UNIT, the receive sink, the count, and the phase
that follows. A refused write leaves the engine stuck between the READ_UNIT and the count: the unit is popped and lost
(R68), and memory, pointer, count and phase are unchanged (R32, R8; log entry 7). -/
def popOne (after : Phase) (s : State) : Except Fault State :=
  match readUnit (modeBit s.eng.m) (pollRxempty s) with
  | .error c => .error c
  | .ok t =>
    match rxSink (trunc t.eng.m (respData t.xifResp)) t with
    | none => .ok t.setStuck
    | some v => .ok ((countPop v).setPhase after)

/-- Phase A_POP: the drain half of an iteration, at most one pop (R67). -/
def stepAPop (s : State) : Except Fault State :=
  if respFlag (pollRxempty s).xifResp then .ok ((pollRxempty s).setPhase .aPush)
  else if s.eng.inflight = 0#8 then .error .inflightUnderflow
  else popOne .aPush s

/-- Phase B_DRAIN: complete when nothing is in flight, else pop what has been received (R70). -/
def stepBDrain (s : State) : Except Fault State :=
  if s.eng.inflight = 0#8 then .ok s.complete
  else if respFlag (pollRxempty s).xifResp then .ok (pollRxempty s)
  else popOne .bDrain s

end Sys2Proof.Machine
end

