-- ==== Sys2Proof/Machine/Xchg.lean ====
section
/-! DEFINITION. The single-unit exchange: acceptance (R59) and the engine's two phases (R60, R61). -/

namespace Sys2Proof.Machine

/-- `start_xchg()` after `STATUS.DONE <- 0` (R31, R59). -/
def startXchg (s : State) : State :=
  { s with regs := { s.regs with done := false },
           eng := { s.eng with op := .xchg, m := currentMode s, size := sizeOfMode (currentMode s),
                               txunit := s.regs.txdata, phase := .sWaitTx } }

/-- Meaning of XCHG: the host's CMD write accepts it, or faults while BUSY (R31, R59). -/
def execXchg (s : State) : Host.Outcome State Fault Refusal :=
  .next (if busy s then raiseFault .cmdWhileBusy s else startXchg s)

/-- Phase S_WAITTX: poll; push when the transmit side is not full (R60). -/
def stepSWaitTx (s : State) : Except Fault State :=
  if respFlag (pollTxfull s).xifResp then .ok (pollTxfull s)
  else
    match writeUnit (modeBit s.eng.m) (trunc s.eng.m s.eng.txunit) (pollTxfull s) with
    | .error c => .error c
    | .ok t => .ok (t.setPhase .sWaitRx)

/-- RXDATA takes the popped unit and the command completes (R61). -/
def finishXchg (s : State) : State :=
  ({ s with regs := { s.regs with rxdata := trunc s.eng.m (respData s.xifResp) } }).complete

/-- Phase S_WAITRX: poll; pop and complete when a unit has been received (R61). -/
def stepSWaitRx (s : State) : Except Fault State :=
  if respFlag (pollRxempty s).xifResp then .ok (pollRxempty s)
  else
    match readUnit (modeBit s.eng.m) (pollRxempty s) with
    | .error c => .error c
    | .ok t => .ok (finishXchg t)

end Sys2Proof.Machine
end

