-- ==== Sys2Proof/Machine/Engine.lean ====
section
/-! DEFINITION. One step of the engine, by its phase (R20). -/

namespace Sys2Proof.Machine

/-- The engine has a step: a command runs and no refused access holds it (R32); or it is idle and a request has been given
to it from outside (log entry 10). Otherwise an idle engine has none (R105). -/
def engineEnabled (s : State) : Bool := if busy s then !s.stuck else s.placed.isSome

/-- One phase visit of a running command (R20, D14). -/
def engineStep (s : State) : Except Fault State :=
  match s.eng.phase with
  | .idle => .ok s
  | .waitTx => .ok (stepWaitTx s)
  | .aPush => stepAPush s
  | .aPop => stepAPop s
  | .bDrain => stepBDrain s
  | .sWaitTx => stepSWaitTx s
  | .sWaitRx => stepSWaitRx s

end Sys2Proof.Machine
end

