-- ==== Sys2Proof/WellFormed.lean ====
section
/-! DEFINITION. The requests the engine may issue: the one relation between fields that the types do not carry. -/

namespace Sys2Proof

/-- In Width8 a WRITE_UNIT has `WDATA[15:8] = 0` (R48); every other field takes every value. -/
def Instr.wellFormed : Instr → Bool
  | .xchg => true
  | .xbuf _ _ => true
  | .pollTxfull => true
  | .pollRxempty => true
  | .writeUnit w16 wdata => w16 || wdata.extractLsb' 8 8 == 0#8
  | .readUnit _ => true

end Sys2Proof
end

