-- ==== Sys2Proof/Decode.lean ====
section
/-! DEFINITION. Decoding a word of either port, total and rejecting by name (R46, R48, R49), and the encoder written
from the same tables. -/

namespace Sys2Proof

/-- `decode_cmd` (R46): XCHG is one word, XBUF needs OP = 0b10 and `[31:4] = 0`, everything else is reserved (R49). -/
def decodeCmd (v : Word) : Except DecodeError Instr :=
  if v = 0x00000001#32 then .ok .xchg
  else if v.extractLsb' 0 2 = 0b10#2 ∧ v.extractLsb' 4 28 = 0#28 then
    .ok (.xbuf (v.getLsbD 2) (v.getLsbD 3))
  else .error .reservedCmd

/-- The transceiver's decoding of a request: XOP `[2:0]`, W16 `[3]`, WDATA `[19:4]` (R48); a poll has no fields, a
READ_UNIT no WDATA. DESIGN CHOICE (log entry 10): R48 gives "no transaction" (XOP 0b000) no W16, and the model takes the
word of zeros alone for it and rejects 0x00008, XOP 0b000 with W16 = 1, as reserved. -/
def decodeXif (v : XifRequest) : Except DecodeError Instr :=
  if v = 0x00000#20 then .error .noTransaction
  else if v = 0x00001#20 then .ok .pollTxfull
  else if v = 0x00002#20 then .ok .pollRxempty
  else if v.extractLsb' 0 3 = 0b011#3 then .ok (.writeUnit (v.getLsbD 3) (v.extractLsb' 4 16))
  else if v.extractLsb' 0 3 = 0b100#3 ∧ v.extractLsb' 4 16 = 0#16 then .ok (.readUnit (v.getLsbD 3))
  else .error .reservedXif

/-- Decoding by port (R50). -/
def decode : Encoded → Except DecodeError Instr
  | .cmd v => decodeCmd v
  | .xif v => decodeXif v

/-- The CMD word of an XBUF: RSV = 0, RXP, TXP, OP = 0b10 (R46). -/
def encodeXbuf (txp rxp : Bool) : Word :=
  0#28 ++ BitVec.ofBool rxp ++ BitVec.ofBool txp ++ 0b10#2

/-- A request: WDATA, W16, XOP (R48). -/
def encodeRequest (xop : BitVec 3) (w16 : Bool) (wdata : Unit16) : XifRequest :=
  wdata ++ BitVec.ofBool w16 ++ xop

/-- The word of an operation, on its port (R46, R48). -/
def encode : Instr → Encoded
  | .xchg => .cmd 0x00000001#32
  | .xbuf txp rxp => .cmd (encodeXbuf txp rxp)
  | .pollTxfull => .xif (encodeRequest 0b001#3 false 0#16)
  | .pollRxempty => .xif (encodeRequest 0b010#3 false 0#16)
  | .writeUnit w16 wdata => .xif (encodeRequest 0b011#3 w16 wdata)
  | .readUnit w16 => .xif (encodeRequest 0b100#3 w16 0#16)

/-- The word of a row of spec/opcode_table.json, laid on its port: a CMD row has 32 bits, an XIF row 20 (24 in whole
bytes, or fewer where a row fixes fewer); bits above the format's width do not exist. -/
def tableWord (nbits w : Nat) : Option Encoded :=
  if nbits ≤ 24 then
    if w < 2 ^ 20 then some (.xif (BitVec.ofNat 20 w)) else none
  else if nbits = 32 ∧ w < 2 ^ 32 then some (.cmd (BitVec.ofNat 32 w))
  else none

/-- What the decoder reads from a table row's word, `none` where it refuses. -/
def decodeTableWord (nbits w : Nat) : Option Instr :=
  match tableWord nbits w with
  | some e => (decode e).toOption
  | none => none

end Sys2Proof
end

