-- ==== Sys2Proof/Machine/Dispatch.lean ====
section
/-! DEFINITION. The meaning of every operation of the opcode map (R51), one arm a constructor. -/

namespace Sys2Proof.Machine

def exec (i : Instr) (s : State) : Host.Outcome State Fault Refusal :=
  match i with
  | .xchg => Sys2Proof.Machine.execXchg s
  | .xbuf txp rxp => Sys2Proof.Machine.execXbuf txp rxp s
  | .pollTxfull => Sys2Proof.Machine.execPollTxfull s
  | .pollRxempty => Sys2Proof.Machine.execPollRxempty s
  | .writeUnit w16 wdata => Sys2Proof.Machine.execWriteUnit w16 wdata s
  | .readUnit w16 => Sys2Proof.Machine.execReadUnit w16 s

end Sys2Proof.Machine
end

