-- ==== Sys2Proof/Machine/Transceiver.lean ====
section
/-! DEFINITION. The transceiver agent (R85 to R89), the peer (R87, R88), and what the transceiver holds after a
configuration action (R25, R80). -/

namespace Sys2Proof.Machine

/-- LOAD is enabled (R85). -/
def loadEnabled (s : State) : Bool := s.xcvr.sr.isNone && !s.xcvr.txq.isEmpty

/-- SHIFT is enabled (R86). -/
def shiftEnabled (s : State) : Bool := s.xcvr.sr.isSome

/-- LOAD: the oldest unit moves into the shift register (R85); nothing where it is not enabled. -/
def loadStep (s : State) : State :=
  match s.xcvr.sr, s.xcvr.txq with
  | none, u :: rest => { s with xcvr := { s.xcvr with txq := rest, sr := some u } }
  | _, _ => s

/-- `PEER(u)` at step `n`, and the peer afterwards (R87, R88; log entry 6). -/
def peerAnswer (n : Nat) (u : Unit16) : Peer → Unit16 × Peer
  | .loopback => (u, .loopback)
  | .answers [] => (Config.peer n u, .answers [])
  | .answers (r :: rest) => (r, .answers rest)

/-- SHIFT: one unit out, one unit in, in one step (R86); nothing where it is not enabled. -/
def shiftStep (s : State) : Except Fault State :=
  match s.xcvr.sr with
  | none => .ok s
  | some u =>
    if rxfull s then .error .rxOverrun
    else
      .ok { s with
        xcvr := { s.xcvr with sr := none,
                              rxq := s.xcvr.rxq ++ [trunc (currentMode s) (peerAnswer s.stepNo u s.peer).1] },
        peer := (peerAnswer s.stepNo u s.peer).2 }

/-- A unit held across a change of width: as it is where it fits (R80), else a free value of the new width (log
entry 8). -/
def refitUnit (m : Mode) (n place k : Nat) (u : Unit16) : Unit16 :=
  if trunc m u = u then u else trunc m (Config.heldUnit n place k)

/-- The units of a queue held across a change of width. -/
def refitUnits (m : Mode) (n place : Nat) : Nat → List Unit16 → List Unit16
  | _, [] => []
  | k, u :: rest => refitUnit m n place k u :: refitUnits m n place (k + 1) rest

/-- `n` units of a width, each a free value (log entry 8). -/
def freeUnits (m : Mode) (step place : Nat) : Nat → List Unit16
  | 0 => []
  | n + 1 => trunc m (Config.heldUnit step place n) :: freeUnits m step place n

/-- A queue held across a change of depth: whole where it fits (R25), else a free number of free units that fit (log
entry 8). -/
def refitQueue (m : Mode) (n place depth : Nat) (q : List Unit16) : List Unit16 :=
  if q.length ≤ depth then refitUnits m n place 0 q
  else freeUnits m n place (Config.heldCount n place % (depth + 1))

/-- The transceiver after `cfg_mode16` has changed (R25, R80): as before where its units fit the new width and depths. -/
def refit (s : State) : State :=
  { s with xcvr := { txq := refitQueue (currentMode s) s.stepNo 0 (txDepth s.params (currentMode s)) s.xcvr.txq,
                     sr := s.xcvr.sr.map (refitUnit (currentMode s) s.stepNo 1 0),
                     rxq := refitQueue (currentMode s) s.stepNo 2 (rxDepth s.params (currentMode s)) s.xcvr.rxq } }

/-- A configuration action: a change while BUSY is a fault (R57), otherwise it takes effect at the next command; the
same value is no change. -/
def configure (mode16 : Bool) (s : State) : State :=
  if mode16 = s.cfgMode16 then s
  else if busy s then raiseFault .modeChangedWhileBusy s
  else refit { s with cfgMode16 := mode16 }

end Sys2Proof.Machine
end

