-- ==== Sys2Proof/Machine/HostPort.lean ====
section
/-! DEFINITION. The host agent: accesses to the register window (R30, R31), the CMD write that decodes and runs a
command (R46, R49), buffer memory accesses (R40), the configuration action (R57), and the pseudo-operations (R53, R76,
R77). -/

namespace Sys2Proof.Machine

/-- A host write of CMD (R31): a fault while BUSY comes before the decoding (R97); a reserved word is refused (R49). -/
def writeCmd (v : Word) (s : State) : Host.Outcome State Fault Refusal :=
  if busy s then .next (raiseFault .cmdWhileBusy s)
  else
    match decodeCmd v with
    | .ok i => exec i s
    | .error _ => .next (refuse .reservedCmd s)

/-- An admitted host write (R31). -/
def hostWrite (r : HostReg) (v : Word) (s : State) : Host.Outcome State Fault Refusal :=
  match r with
  | .cmd => writeCmd v s
  | .txaddr => .next (writeReg .txaddr v s)
  | .rxaddr => .next (writeReg .rxaddr v s)
  | .len => .next (writeReg .len v s)
  | .txdata => .next (writeReg .txdata v s)
  | .rxdata => .next (writeReg .rxdata v s)
  | .status => .next (writeReg .status v s)
  | .result => .next (writeReg .result v s)

/-- A store in the register window, refused where it is not admitted (R31). -/
def hostStore (bytes : Nat) (addr v : Word) (s : State) : Host.Outcome State Fault Refusal :=
  match regAt s.params bytes addr with
  | none => .next (refuse .badHostAccess s)
  | some r => hostWrite r v s

/-- A host variable takes a value (R52). -/
def State.assign (name : Nat) (v : Word) (s : State) : State := { s with hostVars := setVar name v s.hostVars }

/-- A load from the register window: no effect on any state but the host's variable, refused where it is not admitted
(R30). -/
def hostLoad (bytes : Nat) (addr : Word) (name : Nat) (s : State) : State :=
  match regAt s.params bytes addr with
  | none => refuse .badHostAccess s
  | some r => s.assign name (readReg s r)

/-- A load of which the variable takes the low byte (R76). -/
def hostLoadLow8 (addr : Word) (name : Nat) (s : State) : State :=
  match regAt s.params 4 addr with
  | none => refuse .badHostAccess s
  | some r => s.assign name ((readReg s r).extractLsb' 0 8 |>.setWidth 32)

/-- One load of a WAIT: the host goes on when the field has the value, and loads again at its next turn otherwise (R52). -/
def hostWait (addr : Word) (hi lo : Nat) (value : Word) (rest : List HostOp) (s : State) : State :=
  match regAt s.params 4 addr with
  | none => refuse .badHostAccess s
  | some r => if fieldOf (readReg s r) hi lo = value then s.setProg rest else s

/-- `WR REG, value` (R52). -/
def wr (p : Params) (r : HostReg) (v : Word) : HostOp := .store 4 (regAddr p r) v

/-- `RD REG -> name` (R52). -/
def rd (p : Params) (r : HostReg) (name : Nat) : HostOp := .load 4 (regAddr p r) name

/-- `WAIT STATUS.DONE = 1` (R16, R52). -/
def waitDone (p : Params) : HostOp := .wait (regAddr p .status) 1 1 1#32

/-- The word of a command (R46), the word of zeros where the operation is none. -/
def cmdWord (i : Instr) : Word :=
  match encode i with
  | .cmd w => w
  | .xif _ => 0#32

/-- The expansion of XCHG1, its last load apart (R53). -/
def xchg1Ops (p : Params) (value : Word) : List HostOp :=
  [wr p .txdata value, wr p .cmd (cmdWord .xchg), waitDone p]

/-- The expansion of XBUFW after its address registers (R53). -/
def xbufOps (p : Params) (len : Word) (txp rxp : Bool) (name : Nat) : List HostOp :=
  [wr p .len len, wr p .cmd (cmdWord (.xbuf txp rxp)), waitDone p, rd p .result name]

/-- The write of an address register, none for an absent buffer (R77). -/
def addrOps (p : Params) (r : HostReg) : Option Word → List HostOp
  | none => []
  | some a => [wr p r a]

/-- A pseudo-operation as the operations it stands for, any other operation as itself (R53, R76, R77). -/
def expandOp (p : Params) : HostOp → List HostOp
  | .store b a v => [.store b a v]
  | .load b a x => [.load b a x]
  | .loadLow8 a x => [.loadLow8 a x]
  | .wait a hi lo v => [.wait a hi lo v]
  | .memStore a bs => [.memStore a bs]
  | .memLoad a n x => [.memLoad a n x]
  | .configure b => [.configure b]
  | .xchg1 v x => xchg1Ops p v ++ [rd p .rxdata x]
  | .xbufw ta n ra txp rxp x => wr p .txaddr ta :: wr p .rxaddr ra :: xbufOps p n txp rxp x
  | .exchange8bit b x => xchg1Ops p (b.setWidth 32) ++ [.loadLow8 (regAddr p .rxdata) x]
  | .exchangeBuffer8bit tx n rx x =>
    addrOps p .txaddr tx ++ addrOps p .rxaddr rx ++ xbufOps p n tx.isSome rx.isSome x

/-- A wrapper, admitted only when `cfg_mode16 = 0` (R76, R77). -/
def isWrapper : HostOp → Bool
  | .store _ _ _ => false
  | .load _ _ _ => false
  | .loadLow8 _ _ => false
  | .wait _ _ _ _ => false
  | .memStore _ _ => false
  | .memLoad _ _ _ => false
  | .configure _ => false
  | .xchg1 _ _ => false
  | .xbufw _ _ _ _ _ _ => false
  | .exchange8bit _ _ => true
  | .exchangeBuffer8bit _ _ _ _ => true

/-- One operation of the host that is no pseudo-operation, `rest` being what it does afterwards. A pseudo-operation never
stands at the head of an expansion, so nothing happens for one here. -/
def hostPrim (op : HostOp) (rest : List HostOp) (s : State) : Host.Outcome State Fault Refusal :=
  match op with
  | .store b a v => onNext (hostStore b a v s) (State.popProg rest)
  | .load b a x => .next ((hostLoad b a x s).popProg rest)
  | .loadLow8 a x => .next ((hostLoadLow8 a x s).popProg rest)
  | .wait a hi lo v => .next (hostWait a hi lo v rest s)
  | .memStore a bs => .next ((s.setMem (memStoreBytes s.mem a bs)).setProg rest)
  | .memLoad a n x => .next ((s.assign x (memLoadBytes s.mem a n)).setProg rest)
  | .configure b => .next ((configure b s).popProg rest)
  | .xchg1 _ _ => .next s
  | .xbufw _ _ _ _ _ _ => .next s
  | .exchange8bit _ _ => .next s
  | .exchangeBuffer8bit _ _ _ _ => .next s

/-- The host's turn with `op` first: a wrapper in Width16 is refused, a pseudo-operation takes its expansion's place and
its first operation is done in this step (R53, R76, R77; log entry 23). -/
def hostMove (op : HostOp) (rest : List HostOp) (s : State) : Host.Outcome State Fault Refusal :=
  if isWrapper op && s.cfgMode16 then .next (refuse .wrapperInWidth16 s)
  else
    match expandOp s.params op ++ rest with
    | [] => .next s
    | first :: after => hostPrim first after (s.setProg (first :: after))

end Sys2Proof.Machine
end

