-- ==== Sys2Proof/Machine/Schedule.lean ====
section
/-! DEFINITION. Who moves in a step, and one step of the whole machine (R3, R79, R94, R95). -/

namespace Sys2Proof.Machine

/-- A request word issued on the XIF port: its meaning, nothing for the word of zeros, a refusal for a reserved one (R48,
R49; log entry 10). -/
def serveXif (request : XifRequest) (s : State) : Host.Outcome State Fault Refusal :=
  match decodeXif request with
  | .ok i => exec i s
  | .error .noTransaction => .next s
  | .error .reservedXif => .next (refuse .reservedXif s)
  | .error .reservedCmd => .next s

/-- The step of an idle engine that issues the request given to it from outside, one transaction in one engine step (R79;
log entry 10); nothing where none is given (R105). -/
def placedStep (s : State) : Host.Outcome State Fault Refusal :=
  match s.placed with
  | some request => onNext (serveXif request s) State.popPlaced
  | none => .next s

/-- One step of the engine, settled: its phase's, or that of an idle engine. -/
def engineTurn (s : State) : Host.Outcome State Fault Refusal :=
  if busy s then .next (if s.stuck then s else settle s (engineStep s)) else placedStep s

/-- One turn; an agent with no enabled step changes nothing (R79, R85, R86, R105). -/
def runTurn (t : Turn) (s : State) : Host.Outcome State Fault Refusal :=
  match t with
  | .host =>
    match s.hostProg with
    | [] => .next s
    | op :: rest => hostMove op rest s
  | .engine => engineTurn s
  | .load => .next (loadStep s)
  | .shift => .next (settle s (shiftStep s))
  | .reset => .next (resetBlock s)

/-- The agents that can move (R79): what a free choice is made among. -/
def enabledTurns (s : State) : List Turn :=
  (if s.hostProg.isEmpty then [] else [.host]) ++ (if engineEnabled s then [.engine] else []) ++
    (if loadEnabled s then [.load] else []) ++ (if shiftEnabled s then [.shift] else [])

/-- A free choice among the agents that can move; no choice where only one can (log entry 2). -/
def chooseTurn (n : Nat) : List Turn → Option Turn
  | [] => none
  | [t] => some t
  | t :: u :: ts => (t :: u :: ts)[Config.pickTurn n % (ts.length + 2)]?

/-- Who moves: the schedule's next turn, or a free choice when the schedule is empty (R79; log entry 2). -/
def nextTurn (s : State) : Option Turn :=
  match s.turns with
  | t :: _ => some t
  | [] => chooseTurn s.stepNo (enabledTurns s)

/-- A step in which some agent may move; with nobody to move the state stays (log entry 14). -/
def agentStep (s : State) : Host.Outcome State Fault Refusal :=
  match nextTurn s with
  | some t => onNext (runTurn t (s.setTurns s.turns.tail)) State.tick
  | none => .next s

/-- One step of the machine. A reset comes before everything; then a recorded fault or refusal stops every agent (R94,
R95); then parameters that fail R6 are refused; then an agent moves. -/
def stepOnce (s : State) : Host.Outcome State Fault Refusal :=
  match s.turns, s.faults, s.refused with
  | .reset :: ts, _, _ => onNext (runTurn .reset (s.setTurns ts)) State.tick
  | _, f :: _, _ => .fault f.code
  | _, [], some r => .refused r
  | _, [], none => if paramsAdmitted s.params then agentStep s else .next (refuse .badConfig s)

/-- A word placed where the next step takes its instruction from: a CMD word as the host's next store, an XIF word as the
request an idle engine issues next (log entries 10, 12). -/
def placeWord (e : Encoded) (s : State) : State :=
  match e with
  | .cmd w => { s with hostProg := wr s.params .cmd w :: s.hostProg, turns := .host :: s.turns }
  | .xif w => { s with placed := some w, turns := .engine :: s.turns }

end Sys2Proof.Machine
end

