-- ==== Sys2Proof/Machine/Step.lean ====
section
/-! DEFINITION. One step of the machine, and a state whose next step runs a given word. -/

namespace Sys2Proof.Machine

/-- One step (R79, R94, R95): see `stepOnce`. -/
def step (s : State) : Host.Outcome State Fault Refusal := stepOnce s

/-- `s` with a table row's word placed where the next step takes its instruction from, on its port (R50; log entry 12);
`s` itself where the word has no place on a port. -/
def State.withFetchWord (s : State) (nbits w : Nat) : State :=
  match tableWord nbits w with
  | some e => placeWord e s
  | none => s

end Sys2Proof.Machine
end

