-- ==== Sys2Proof/Safety.lean ====
section
/-! DEFINITION. The terms claims use: when the machine runs, the entry premise of a command (R108), the occupancy of the
transceiver (R73), and the invariants of a safe run (R22, R25, R73, R80). -/

namespace Sys2Proof.Machine

/-- Agents may move: no fault, no refusal, admitted parameters (R6, R94, R95). -/
def State.Running (s : State) : Prop :=
  s.faults = [] ∧ s.refused = none ∧ paramsAdmitted s.params = true

/-- The next turn is `t`, the schedule's or one chosen freely where it is empty (R79), the turns after it are `ts`, and
agents may move. -/
def State.NextTurn (s : State) (t : Turn) (ts : List Turn) : Prop :=
  s.Running ∧ nextTurn s = some t ∧ s.turns.tail = ts

/-- The engine moves next: a command runs and no refused access holds it. -/
def State.EngineTurn (s : State) (ts : List Turn) : Prop :=
  s.NextTurn .engine ts ∧ s.stuck = false ∧ busy s = true

/-- The host moves next with operation `op`, `rest` being what it does afterwards. -/
def State.HostTurn (s : State) (op : HostOp) (rest : List HostOp) (ts : List Turn) : Prop :=
  s.NextTurn .host ts ∧ s.hostProg = op :: rest

/-- What every step does beside its own effect: the turn is used up and the step counted (log entry 13). -/
def State.advance (s : State) (ts : List Turn) : State := { s with turns := ts, stepNo := s.stepNo + 1 }

/-- The transceiver holds no unit (R108). -/
def State.Quiescent (s : State) : Prop := s.xcvr.txq = [] ∧ s.xcvr.sr = none ∧ s.xcvr.rxq = []

/-- The units of the shift register: none or one. -/
def srUnits (x : Transceiver) : List Unit16 := x.sr.toList

/-- `occ` (R73): the number of units in the transceiver. -/
def occupancy (x : Transceiver) : Nat := x.txq.length + (srUnits x).length + x.rxq.length

/-- The units in the transceiver, the next to be read first (R89). -/
def pipeline (x : Transceiver) : List Unit16 := x.rxq ++ srUnits x ++ x.txq

/-- A phase of a buffered exchange (R20). -/
def inXbuf : Phase → Bool
  | .idle => false
  | .waitTx => true
  | .aPush => true
  | .aPop => true
  | .bDrain => true
  | .sWaitTx => false
  | .sWaitRx => false

/-- A phase that reaches buffer memory, the only kind that can get stuck (R32). -/
def inTransfer : Phase → Bool
  | .idle => false
  | .waitTx => false
  | .aPush => true
  | .aPop => true
  | .bDrain => true
  | .sWaitTx => false
  | .sWaitRx => false

/-- A unit has the width of the mode (R80). -/
def unitFits (m : Mode) (u : Unit16) : Prop := trunc m u = u

/-- The transceiver keeps its bounds (R25) and every unit in it has the current width (R80). -/
structure XcvrOk (m : Mode) (p : Params) (x : Transceiver) : Prop where
  txBound : x.txq.length ≤ txDepth p m
  rxBound : x.rxq.length ≤ rxDepth p m
  fits    : ∀ u ∈ pipeline x, unitFits m u

/-- The engine's fields fit together: the cap (R22), the count (R58), the size (R57), the command of the phase (R20), and
what A_POP and B_DRAIN rely on (R67, R72). -/
structure EngineOk (p : Params) (e : Engine) : Prop where
  cap      : e.inflight.toNat ≤ p.fifoLimit
  bound    : e.sent.toNat ≤ e.count.toNat
  size     : e.size = sizeOfMode e.m
  xbufOp   : inXbuf e.phase = true → e.op = .xbuf
  xchgOp   : e.phase = .sWaitTx ∨ e.phase = .sWaitRx → e.op = .xchg
  popOwed  : e.phase = .aPop → e.inflight ≠ 0#8
  allSent  : e.phase = .bDrain → e.sent = e.count

/-- The invariant of the machine: what holds in every state a run reaches, whatever the host, the peer and the schedule
do. -/
structure State.Inv (s : State) : Prop where
  mem     : memWf s.mem = true
  engine  : EngineOk s.params s.eng
  xcvr    : XcvrOk (currentMode s) s.params s.xcvr
  /-- The mode is constant during a command (R57). -/
  mode    : busy s = true → s.eng.m = currentMode s
  stuck   : s.stuck = true → inTransfer s.eng.phase = true
  /-- At most one fault or refusal is ever taken (R94, R95, R97). -/
  oneStop : s.faults.length + s.refused.toList.length ≤ 1

/-- The units popped and lost (R68) but still counted, since the decrement follows the receive sink (R67, R70): one in an
engine that a refused write holds in A_POP or B_DRAIN, and otherwise none (log entry 7). -/
def lostUnits (s : State) : Nat := if s.stuck ∧ (s.eng.phase = .aPop ∨ s.eng.phase = .bDrain) then 1 else 0

/-- What the number of units taken up and not yet counted out must be in each phase (R62, R73, R108). -/
def occupancyDue (e : Engine) (occ : Nat) : Prop :=
  match e.phase with
  | .idle => occ = 0
  | .waitTx => e.inflight.toNat = occ
  | .aPush => e.inflight.toNat = occ
  | .aPop => e.inflight.toNat = occ
  | .bDrain => e.inflight.toNat = occ
  | .sWaitTx => occ = 0
  | .sWaitRx => occ = 1

/-- The occupancy invariant (R73) of a run in which only the engine uses the transceiver (R90): the in-flight count is the
occupancy, and the transceiver is quiescent between commands (R108). In an engine that a refused receive write holds
before its decrement the count is the occupancy and the one lost unit (R67, R68; log entry 7). -/
structure State.OccInv (s : State) : Prop where
  inv  : s.Inv
  /-- No request is given to the engine from outside (R90; log entry 10). -/
  only : s.placed = none
  due  : occupancyDue s.eng (occupancy s.xcvr + lostUnits s)

/-! ### Runs and fairness (R110) -/

/-- A run of the machine that never stops on a fault or a refusal: each state's step answers the next. -/
def IsRun (r : Nat → State) : Prop := ∀ n, step (r n) = .next (r (n + 1))

/-- A step of this agent is taken. -/
def Takes (t : Turn) (s : State) : Prop := nextTurn s = some t

/-- Weak fairness (R110): a step of the engine or the transceiver that stays enabled from some point on is taken at or
after that point. -/
def WeaklyFair (r : Nat → State) : Prop :=
  ∀ t, t = .engine ∨ t = .load ∨ t = .shift →
    ∀ n, (∀ m, n ≤ m → t ∈ enabledTurns (r m)) → ∃ m, n ≤ m ∧ Takes t (r m)

/-- No reset comes in the run. -/
def NoReset (r : Nat → State) : Prop := ∀ n, ¬ Takes .reset (r n)

/-- The platform admits every buffer access (R32). -/
def AdmitsAll (p : Params) : Prop := ∀ a size kind, memAdmit p a size kind = true

end Sys2Proof.Machine
end

