-- ==== Sys2Proof/Certificates/Slice0/Obligations.lean ====
section
/-! DEFINITION. The statements for the provers, from the numbered rules of spec/. -/

open Sys2Proof Sys2Proof.Machine

/-! ### Encoding (30_encoding.md) -/

/-- R50, R51: every operation, with every operand at every value, is what its own word decodes to on its port. -/
def Obligations.EveryOperationDecodesFromItsWord : Prop := ∀ i : Instr, decode (encode i) = .ok i

/-- R50, R51: a word that decodes to an operation is that operation's only word on that port. -/
def Obligations.NoSecondWordForAnOperation : Prop :=
  ∀ (e : Encoded) (i : Instr), decode e = .ok i → encode i = e

/-- R46, R49: the five command words and nothing else. -/
def Obligations.CommandWordsAreFive : Prop :=
  decodeCmd 0x00000001#32 = .ok .xchg ∧
  decodeCmd 0x00000002#32 = .ok (.xbuf false false) ∧
  decodeCmd 0x00000006#32 = .ok (.xbuf true false) ∧
  decodeCmd 0x0000000A#32 = .ok (.xbuf false true) ∧
  decodeCmd 0x0000000E#32 = .ok (.xbuf true true) ∧
  ∀ v : Word, v ∉ [0x00000001#32, 0x00000002#32, 0x00000006#32, 0x0000000A#32, 0x0000000E#32] →
    decodeCmd v = .error .reservedCmd

/-- R48, 95_test_vectors.md 2.2: request words written out in the spec decode to what they stand for. -/
def Obligations.RequestWordsOfTheSpecDecode : Prop :=
  decodeXif 0x00001#20 = .ok .pollTxfull ∧
  decodeXif 0x00002#20 = .ok .pollRxempty ∧
  decodeXif 0x00A53#20 = .ok (.writeUnit false 0x00A5#16) ∧
  decodeXif 0x1234B#20 = .ok (.writeUnit true 0x1234#16) ∧
  decodeXif 0x00004#20 = .ok (.readUnit false) ∧
  decodeXif 0x0000C#20 = .ok (.readUnit true) ∧
  decodeXif 0x00005#20 = .error .reservedXif ∧
  decodeXif 0x00014#20 = .error .reservedXif

/-- R48, R60, R66: the unit of a WRITE_UNIT the engine issues, that of A_PUSH (from memory or DUMMY) and that of S_WAITTX,
has the width of the command's mode, so in Width8 `WDATA[15:8] = 0`. -/
def Obligations.EngineIssuesWellFormedWrites : Prop :=
  ∀ s : State, s.Inv →
    (∀ u : Unit16, txUnit s = some u → (Instr.writeUnit (modeBit s.eng.m) u).wellFormed = true) ∧
    (Instr.writeUnit (modeBit s.eng.m) (trunc s.eng.m s.eng.txunit)).wellFormed = true

/-! ### A step runs the decoded instruction -/

/-- R31, R46: when the host's next operation is a 4-byte store of a command word in CMD and the block is idle, the step is
the command's meaning; around it the turn and the host's operation are used up and the step is counted. -/
def Obligations.StepRunsTheWrittenCommand : Prop :=
  ∀ (s : State) (v : Word) (i : Instr) (rest : List HostOp) (ts : List Turn),
    s.HostTurn (.store 4 s.params.regBase v) rest ts → busy s = false → decodeCmd v = .ok i →
      step s = onNext (exec i (s.setTurns ts)) (fun t => (t.popProg rest).tick)

/-- R48; that a request can be given to an idle engine from outside, as `withFetchWord` does, is the model's choice (log
entry 10): at the engine's next turn the step is the transaction's meaning; around it the turn and the request are used up
and the step is counted. -/
def Obligations.StepRunsTheDrivenRequest : Prop :=
  ∀ (s : State) (w : XifRequest) (i : Instr) (ts : List Turn),
    s.NextTurn .engine ts → busy s = false → s.placed = some w → decodeXif w = .ok i →
      step s = onNext (exec i (s.setTurns ts)) (fun t => t.popPlaced.tick)

/-- Log entry 12, the model's choice: the word of a table row, placed by `withFetchWord` in a running idle machine, is what
the next step decodes and runs. -/
def Obligations.PlacedWordIsRunNext : Prop :=
  ∀ (s : State) (nbits w : Nat) (i : Instr),
    s.Running → busy s = false → s.placed = none → decodeTableWord nbits w = some i →
    step (s.withFetchWord nbits w) =
      onNext (exec i ((s.withFetchWord nbits w).setTurns s.turns)) (fun t => ((t.popProg s.hostProg).popPlaced).tick)

/-! ### Acceptance of the commands (R59, R63) -/

/-- R59: XCHG latches the mode and the unit and starts in S_WAITTX; DONE is cleared; nothing else changes. While BUSY it
is the fault CMD_WHILE_BUSY. -/
def Obligations.XchgIsAccepted : Prop :=
  encode .xchg = .cmd 0x00000001#32 ∧
  ∀ s : State,
    (s.eng.phase = .idle →
      exec .xchg s = .next { s with
        regs := { s.regs with done := false }
        eng := { s.eng with op := .xchg, m := currentMode s, size := sizeOfMode (currentMode s),
                            txunit := s.regs.txdata, phase := .sWaitTx } }) ∧
    (s.eng.phase ≠ .idle → exec .xchg s = .next (raiseFault .cmdWhileBusy s))

/-- R63: XBUF latches its operands and starts in WAITTX when its count is above 0, completes at acceptance when the count is
0, and faults on a misaligned present buffer or while BUSY. -/
def Obligations.XbufIsAccepted : Prop :=
  ∀ (txp rxp : Bool) (s : State),
    encode (.xbuf txp rxp) = .cmd (0#28 ++ BitVec.ofBool rxp ++ BitVec.ofBool txp ++ 0b10#2) ∧
    (s.eng.phase ≠ .idle → exec (.xbuf txp rxp) s = .next (raiseFault .cmdWhileBusy s)) ∧
    (s.eng.phase = .idle → unitsOf s.regs.len (currentMode s) = 0#32 →
      exec (.xbuf txp rxp) s = .next { s with
        regs := { s.regs with done := true }
        eng := { s.eng with op := .xbuf, m := currentMode s, size := sizeOfMode (currentMode s), count := 0#32,
                            sent := 0#32, inflight := 0#8, txptr := s.regs.txaddr, rxptr := s.regs.rxaddr,
                            txp := txp, rxp := rxp, phase := .idle } }) ∧
    (s.eng.phase = .idle → unitsOf s.regs.len (currentMode s) ≠ 0#32 →
      (s.cfgMode16 = true ∧
        ((txp = true ∧ s.regs.txaddr.getLsbD 0 = true) ∨ (rxp = true ∧ s.regs.rxaddr.getLsbD 0 = true))) →
      exec (.xbuf txp rxp) s = .next (raiseFault .misalignedBuffer s)) ∧
    (s.eng.phase = .idle → unitsOf s.regs.len (currentMode s) ≠ 0#32 →
      ¬ (s.cfgMode16 = true ∧
        ((txp = true ∧ s.regs.txaddr.getLsbD 0 = true) ∨ (rxp = true ∧ s.regs.rxaddr.getLsbD 0 = true))) →
      exec (.xbuf txp rxp) s = .next { s with
        regs := { s.regs with done := false }
        eng := { s.eng with op := .xbuf, m := currentMode s, size := sizeOfMode (currentMode s),
                            count := unitsOf s.regs.len (currentMode s), sent := 0#32, inflight := 0#8,
                            txptr := s.regs.txaddr, rxptr := s.regs.rxaddr, txp := txp, rxp := rxp,
                            phase := .waitTx } })

/-! ### The transactions (R81 to R84) -/

/-- R81: POLL_TXFULL answers whether the transmit queue is full, and changes nothing else. -/
def Obligations.PollTxfullAnswers : Prop :=
  encode .pollTxfull = .xif 0x00001#20 ∧
  ∀ s : State,
    (s.xcvr.txq.length = txDepth s.params (currentMode s) →
      exec .pollTxfull s = .next { s with xifResp := 0x00001#17 }) ∧
    (s.xcvr.txq.length ≠ txDepth s.params (currentMode s) →
      exec .pollTxfull s = .next { s with xifResp := 0x00000#17 })

/-- R82: POLL_RXEMPTY answers whether the receive queue is empty, and changes nothing else. -/
def Obligations.PollRxemptyAnswers : Prop :=
  encode .pollRxempty = .xif 0x00002#20 ∧
  ∀ s : State,
    (s.xcvr.rxq = [] → exec .pollRxempty s = .next { s with xifResp := 0x00001#17 }) ∧
    (s.xcvr.rxq ≠ [] → exec .pollRxempty s = .next { s with xifResp := 0x00000#17 })

/-- R83: WRITE_UNIT appends the unit, truncated to the transceiver's width, and answers zeros; with the transmit side full
it is the fault TX_WRITE_WHEN_FULL. -/
def Obligations.WriteUnitQueues : Prop :=
  ∀ (w16 : Bool) (wdata : Unit16),
    encode (.writeUnit w16 wdata) = .xif (wdata ++ BitVec.ofBool w16 ++ 0b011#3) ∧
    ∀ s : State,
      (s.xcvr.txq.length ≠ txDepth s.params (currentMode s) →
        exec (.writeUnit w16 wdata) s = .next { s with
          xcvr := { s.xcvr with txq := s.xcvr.txq ++ [trunc (currentMode s) wdata] }, xifResp := 0x00000#17 }) ∧
      (s.xcvr.txq.length = txDepth s.params (currentMode s) →
        exec (.writeUnit w16 wdata) s = .next (raiseFault .txWriteWhenFull s))

/-- R84: READ_UNIT takes the oldest received unit and answers it; with the receive side empty it is the fault
RX_READ_WHEN_EMPTY. -/
def Obligations.ReadUnitTakesTheOldest : Prop :=
  ∀ w16 : Bool,
    encode (.readUnit w16) = .xif (0#16 ++ BitVec.ofBool w16 ++ 0b100#3) ∧
    ∀ s : State,
      (∀ (r : Unit16) (rest : List Unit16), s.xcvr.rxq = r :: rest →
        exec (.readUnit w16) s = .next { s with
          xcvr := { s.xcvr with rxq := rest }, xifResp := r ++ 0#1 }) ∧
      (s.xcvr.rxq = [] → exec (.readUnit w16) s = .next (raiseFault .rxReadWhenEmpty s))

/-! ### Frames -/

/-- XCHG and XBUF leave the host's operand registers, RXDATA, the transceiver, buffer memory, the mode input, the
parameters and the peer alone; XCHG leaves every field of an exchange of buffers and so RESULT (R59), XBUF leaves the
XCHG unit. -/
def Obligations.CommandFrame : Prop :=
  ∀ (i : Instr) (s t : State), (i = .xchg ∨ ∃ txp rxp, i = .xbuf txp rxp) → exec i s = .next t →
    (∀ a : Word, memByte t.mem a = memByte s.mem a) ∧
    t.regs.txaddr = s.regs.txaddr ∧ t.regs.rxaddr = s.regs.rxaddr ∧ t.regs.len = s.regs.len ∧
    t.regs.txdata = s.regs.txdata ∧ t.regs.rxdata = s.regs.rxdata ∧
    t.xcvr = s.xcvr ∧ t.xifResp = s.xifResp ∧ t.cfgMode16 = s.cfgMode16 ∧ t.refused = s.refused ∧
    t.params = s.params ∧ t.stuck = s.stuck ∧ t.peer = s.peer ∧ t.turns = s.turns ∧ t.hostProg = s.hostProg ∧
    t.hostVars = s.hostVars ∧ t.stepNo = s.stepNo ∧ t.placed = s.placed ∧
    (s.eng.phase = .idle → t.faults ≠ s.faults → i ≠ .xchg) ∧
    (i = .xchg → t.eng.count = s.eng.count ∧ t.eng.sent = s.eng.sent ∧ t.eng.inflight = s.eng.inflight ∧
      t.eng.txptr = s.eng.txptr ∧ t.eng.rxptr = s.eng.rxptr ∧ t.eng.txp = s.eng.txp ∧ t.eng.rxp = s.eng.rxp) ∧
    (i ≠ .xchg → t.eng.txunit = s.eng.txunit)

/-- The four transactions leave the engine, the host registers, the shift register, buffer memory, the mode input, the
parameters and the peer alone; a poll leaves both queues, WRITE_UNIT the receive queue, READ_UNIT the transmit queue
(R81 to R84). -/
def Obligations.TransactionFrame : Prop :=
  ∀ (i : Instr) (s t : State),
    (i = .pollTxfull ∨ i = .pollRxempty ∨ (∃ w16 wdata, i = .writeUnit w16 wdata) ∨ ∃ w16, i = .readUnit w16) →
    exec i s = .next t →
    (∀ a : Word, memByte t.mem a = memByte s.mem a) ∧
    t.regs = s.regs ∧ t.eng = s.eng ∧ t.xcvr.sr = s.xcvr.sr ∧ t.cfgMode16 = s.cfgMode16 ∧ t.refused = s.refused ∧
    t.params = s.params ∧ t.stuck = s.stuck ∧ t.peer = s.peer ∧ t.turns = s.turns ∧ t.hostProg = s.hostProg ∧
    t.hostVars = s.hostVars ∧ t.stepNo = s.stepNo ∧ t.placed = s.placed ∧
    (i = .pollTxfull ∨ i = .pollRxempty → t.xcvr = s.xcvr ∧ t.faults = s.faults) ∧
    ((∃ w16 wdata, i = .writeUnit w16 wdata) → t.xcvr.rxq = s.xcvr.rxq) ∧
    ((∃ w16, i = .readUnit w16) → t.xcvr.txq = s.xcvr.txq)

/-! ### The engine's phases

Around an engine step, `s.advance ts` uses up the turn and counts the step; that is the model's, log entries 2 and 13. -/

/-- R60: in S_WAITTX the engine polls transmit-full; it stays while full, else it pushes the unit and goes to S_WAITRX. That
the port then holds the push's response alone is the model's choice (log entry 9), as are the turn and the count (log
entries 2, 13). -/
def Obligations.XchgPushesWhenNotFull : Prop :=
  ∀ (s : State) (ts : List Turn), s.EngineTurn ts → s.eng.phase = .sWaitTx →
    (txfull s = true → step s = .next { s.advance ts with xifResp := 0x00001#17 }) ∧
    (txfull s = false → step s = .next { s.advance ts with
      xcvr := { s.xcvr with txq := s.xcvr.txq ++ [trunc (currentMode s) (trunc s.eng.m s.eng.txunit)] }
      xifResp := 0x00000#17
      eng := { s.eng with phase := .sWaitRx } })

/-- R61, R21: in S_WAITRX the engine polls receive-empty; it stays while empty, else it pops, writes RXDATA and completes.
That the port then holds the read's response alone is the model's choice (log entry 9), as are the turn and the count (log
entries 2, 13). -/
def Obligations.XchgPopsAndCompletes : Prop :=
  ∀ (s : State) (ts : List Turn), s.EngineTurn ts → s.eng.phase = .sWaitRx →
    (s.xcvr.rxq = [] → step s = .next { s.advance ts with xifResp := 0x00001#17 }) ∧
    (∀ (r : Unit16) (rest : List Unit16), s.xcvr.rxq = r :: rest →
      step s = .next { s.advance ts with
        xcvr := { s.xcvr with rxq := rest }
        xifResp := r ++ 0#1
        regs := { s.regs with rxdata := trunc s.eng.m r, done := true }
        eng := { s.eng with phase := .idle } })

/-- R64: in WAITTX the engine polls transmit-full and goes to A_PUSH when it is not full. -/
def Obligations.XbufWaitsForASlot : Prop :=
  ∀ (s : State) (ts : List Turn), s.EngineTurn ts → s.eng.phase = .waitTx →
    (txfull s = true → step s = .next { s.advance ts with xifResp := 0x00001#17 }) ∧
    (txfull s = false → step s = .next { s.advance ts with
      xifResp := 0x00000#17
      eng := { s.eng with phase := .aPush } })

/-- R65, R66: the loop test, the cap, and the push: from memory when the buffer is present, DUMMY when it is absent. A full
transmit side is a fault; a refused read changes no state but the mark `stuck`, the engine standing before the WRITE_UNIT
(R32; the mark is the model's, log entry 7). -/
def Obligations.XbufPushesUnderTheCap : Prop :=
  ∀ (s : State) (ts : List Turn), s.EngineTurn ts → s.eng.phase = .aPush →
    (s.eng.sent = s.eng.count →
      step s = .next { s.advance ts with eng := { s.eng with phase := .bDrain } }) ∧
    (s.eng.sent ≠ s.eng.count → s.params.fifoLimit ≤ s.eng.inflight.toNat →
      step s = .next { s.advance ts with eng := { s.eng with phase := .aPop } }) ∧
    (s.eng.sent ≠ s.eng.count → s.eng.inflight.toNat < s.params.fifoLimit →
      (s.eng.txp = true → memAdmit s.params s.eng.txptr s.eng.size .read = false →
        step s = .next { s.advance ts with stuck := true }) ∧
      ∀ u : Unit16,
        (s.eng.txp = true → memAdmit s.params s.eng.txptr s.eng.size .read = true ∧
          u = memRead s.mem s.eng.txptr s.eng.size) →
        (s.eng.txp = false → u = trunc s.eng.m s.params.dummy) →
        (txfull s = true → step s = .next (raiseFault .txWriteWhenFull (s.setTurns ts))) ∧
        (txfull s = false → step s = .next { s.advance ts with
          xcvr := { s.xcvr with txq := s.xcvr.txq ++ [trunc (currentMode s) u] }
          xifResp := 0x00000#17
          eng := { s.eng with txptr := if s.eng.txp then nextUnit s.eng.txptr s.eng.size else s.eng.txptr,
                              sent := s.eng.sent + 1#32, inflight := s.eng.inflight + 1#8, phase := .aPop } }))

/-- R67, R68: the drain half: an empty receive side is no wait; otherwise at most one unit is popped, written at the
receive pointer or discarded, and the count goes down; a count of 0 is a fault before the read. A refused write leaves the
engine stuck after the READ_UNIT and before the decrement: the unit lost, memory, pointer, count and phase unchanged (R68,
R32: log entry 7); after a poll and a pop the port holds the pop's response alone (log entry 9). -/
def Obligations.XbufPopsOnEveryIteration : Prop :=
  ∀ (s : State) (ts : List Turn), s.EngineTurn ts → s.eng.phase = .aPop →
    (s.xcvr.rxq = [] → step s = .next { s.advance ts with
      xifResp := 0x00001#17, eng := { s.eng with phase := .aPush } }) ∧
    (s.xcvr.rxq ≠ [] → s.eng.inflight = 0#8 →
      step s = .next (raiseFault .inflightUnderflow (s.setTurns ts))) ∧
    (∀ (r : Unit16) (rest : List Unit16), s.xcvr.rxq = r :: rest → s.eng.inflight ≠ 0#8 →
      (s.eng.rxp = false → step s = .next { s.advance ts with
        xcvr := { s.xcvr with rxq := rest }, xifResp := r ++ 0#1
        eng := { s.eng with inflight := s.eng.inflight - 1#8, phase := .aPush } }) ∧
      (s.eng.rxp = true → memAdmit s.params s.eng.rxptr s.eng.size .write = true →
        step s = .next { s.advance ts with
          xcvr := { s.xcvr with rxq := rest }, xifResp := r ++ 0#1
          mem := memWrite s.mem s.eng.rxptr (trunc s.eng.m r) s.eng.size
          eng := { s.eng with rxptr := nextUnit s.eng.rxptr s.eng.size, inflight := s.eng.inflight - 1#8,
                              phase := .aPush } }) ∧
      (s.eng.rxp = true → memAdmit s.params s.eng.rxptr s.eng.size .write = false →
        step s = .next { s.advance ts with
          xcvr := { s.xcvr with rxq := rest }, xifResp := r ++ 0#1, stuck := true }))

/-- R70: Phase B completes exactly when nothing is in flight, and otherwise polls and pops; it pushes nothing. A refused
write leaves the engine stuck after the READ_UNIT and before the decrement: the unit lost, memory, pointer, count and phase
unchanged (R68, R32: log entry 7); after a poll and a pop the port holds the pop's response alone (log entry 9). -/
def Obligations.XbufDrainsTheTail : Prop :=
  ∀ (s : State) (ts : List Turn), s.EngineTurn ts → s.eng.phase = .bDrain →
    (s.eng.inflight = 0#8 → step s = .next { s.advance ts with
      regs := { s.regs with done := true }, eng := { s.eng with phase := .idle } }) ∧
    (s.eng.inflight ≠ 0#8 → s.xcvr.rxq = [] → step s = .next { s.advance ts with xifResp := 0x00001#17 }) ∧
    (∀ (r : Unit16) (rest : List Unit16), s.eng.inflight ≠ 0#8 → s.xcvr.rxq = r :: rest →
      (s.eng.rxp = false → step s = .next { s.advance ts with
        xcvr := { s.xcvr with rxq := rest }, xifResp := r ++ 0#1
        eng := { s.eng with inflight := s.eng.inflight - 1#8 } }) ∧
      (s.eng.rxp = true → memAdmit s.params s.eng.rxptr s.eng.size .write = true →
        step s = .next { s.advance ts with
          xcvr := { s.xcvr with rxq := rest }, xifResp := r ++ 0#1
          mem := memWrite s.mem s.eng.rxptr (trunc s.eng.m r) s.eng.size
          eng := { s.eng with rxptr := nextUnit s.eng.rxptr s.eng.size, inflight := s.eng.inflight - 1#8 } }) ∧
      (s.eng.rxp = true → memAdmit s.params s.eng.rxptr s.eng.size .write = false →
        step s = .next { s.advance ts with
          xcvr := { s.xcvr with rxq := rest }, xifResp := r ++ 0#1, stuck := true }))

/-- R32 (log entry 7): a turn of an engine held by a refused access changes nothing; and whoever moves, the engine stays
held as it is and no received unit is taken, until a reset. -/
def Obligations.RefusedAccessHoldsTheEngine : Prop :=
  ∀ s : State, s.stuck = true → busy s = true →
    (∀ ts : List Turn, s.NextTurn .engine ts → step s = .next (s.advance ts)) ∧
    ∀ t : State, step s = .next t →
      (∃ ts, s.turns = .reset :: ts) ∨
        (t.stuck = true ∧ t.eng = s.eng ∧ ∃ more, t.xcvr.rxq = s.xcvr.rxq ++ more)

/-- R66, R68, R69, R75: an engine step reads and writes no memory for an absent buffer and moves no pointer of one: with no
receive buffer every byte stays, with no transmit buffer only DUMMY is pushed; and no access is put to MEM_ADMIT for it, so
no refused access comes of it. -/
def Obligations.AbsentBufferTouchesNoMemory : Prop :=
  ∀ (s t : State) (ts : List Turn), s.EngineTurn ts → inXbuf s.eng.phase = true → step s = .next t →
    (s.eng.rxp = false → (∀ a : Word, memByte t.mem a = memByte s.mem a) ∧ t.eng.rxptr = s.eng.rxptr ∧
      (s.eng.phase = .aPop ∨ s.eng.phase = .bDrain → t.stuck = false)) ∧
    (s.eng.txp = false → t.eng.txptr = s.eng.txptr ∧
      (s.eng.phase = .aPush → t.stuck = false) ∧
      (t.xcvr.txq = s.xcvr.txq ∨
        t.xcvr.txq = s.xcvr.txq ++ [trunc (currentMode s) (trunc s.eng.m s.params.dummy)]))

/-- R35, R68: an engine step changes no byte of buffer memory but those of the one unit at the receive pointer. -/
def Obligations.EngineStoresOneUnit : Prop :=
  ∀ (s t : State) (ts : List Turn), s.EngineTurn ts → step s = .next t →
    ∀ a : Word, a ≠ s.eng.rxptr → (s.eng.size = .two → a ≠ s.eng.rxptr + 1#32) →
      memByte t.mem a = memByte s.mem a

/-- R39, R69: while a command runs, a present transmit buffer's pointer stands at its base plus the units sent, and a
present receive buffer's at its base plus the units received and counted out: every engine step keeps both differences. A
step that leaves the engine stuck at a refused access moves no pointer and no count (R32; at the receive sink: R67, R70, log
entry 7). -/
def Obligations.PointersFollowTheCounts : Prop :=
  ∀ (s t : State) (ts : List Turn), s.EngineTurn ts → step s = .next t →
    (s.eng.txp = true →
      t.eng.txptr - t.eng.sent * BitVec.ofNat 32 (sizeBytes t.eng.size) =
        s.eng.txptr - s.eng.sent * BitVec.ofNat 32 (sizeBytes s.eng.size)) ∧
    (s.eng.rxp = true →
      t.eng.rxptr - (t.eng.sent - t.eng.inflight.setWidth 32) * BitVec.ofNat 32 (sizeBytes t.eng.size) =
        s.eng.rxptr - (s.eng.sent - s.eng.inflight.setWidth 32) * BitVec.ofNat 32 (sizeBytes s.eng.size)) ∧
    (t.stuck = true → t.eng = s.eng)

/-- R71, R107: a running command ends only by completion, which sets DONE, or by reset. -/
def Obligations.OnlyCompletionOrResetEndsACommand : Prop :=
  ∀ s t : State, busy s = true → step s = .next t → busy t = false →
    (∃ ts, s.turns = .reset :: ts) ∨ (t.regs.done = true ∧ t.faults = s.faults)

/-- R72: when an engine step ends a buffered exchange, every unit of its count has been sent and none is in flight. -/
def Obligations.XbufCompletesWithEveryUnitSent : Prop :=
  ∀ (s t : State) (ts : List Turn), s.Inv → s.EngineTurn ts → inXbuf s.eng.phase = true → step s = .next t →
    busy t = false → t.eng.sent = t.eng.count ∧ t.eng.inflight = 0#8 ∧ readReg t .result = t.eng.count

/-- R62: an XCHG that has just been accepted on a quiescent transceiver completes in a push, a LOAD, a SHIFT and a pop:
RXDATA is the unit the peer returned, and the transceiver is quiescent again. -/
def Obligations.XchgExchangesOneUnit : Prop :=
  ∀ (s : State) (ts : List Turn), s.Inv → s.Running → s.Quiescent → s.stuck = false → s.eng.phase = .sWaitTx →
    s.turns = .engine :: .load :: .shift :: .engine :: ts →
    ∃ t : State, Sys2Proof.core.run 4 s = .next t ∧ t.Quiescent ∧ t.eng.phase = .idle ∧ t.regs.done = true ∧
      t.eng.sent = s.eng.sent ∧ t.turns = ts ∧
      t.regs.rxdata =
        trunc s.eng.m (peerAnswer (s.stepNo + 2) (trunc s.eng.m s.eng.txunit) s.peer).1 ∧
      (s.peer = .loopback → t.regs.rxdata = trunc s.eng.m s.eng.txunit)

/-! ### The host -/

/-- R30, R10 to R17: a 4-byte load at a register's offset gives the register's value and changes nothing but the host's
variable. -/
def Obligations.HostReadsEveryRegister : Prop :=
  ∀ (s : State) (x : Nat) (rest : List HostOp) (ts : List Turn) (o v : Word),
    (o, v) ∈ [(0x00#32, 0#32), (0x04#32, s.regs.txaddr), (0x08#32, s.regs.rxaddr), (0x0C#32, s.regs.len),
      (0x10#32, s.regs.txdata.setWidth 32), (0x14#32, s.regs.rxdata.setWidth 32), (0x18#32, statusWord s),
      (0x1C#32, s.eng.sent)] →
    s.HostTurn (.load 4 (s.params.regBase + o) x) rest ts →
      step s = .next { s.advance ts with hostProg := rest, hostVars := setVar x v s.hostVars }

/-- R30, R31, R95: an access to the register window that is not 4 bytes, or not aligned, or beyond 0x1C, sets the refusal
mark and changes nothing else of the machine. -/
def Obligations.BadHostAccessIsRefused : Prop :=
  ∀ (s : State) (b : Nat) (o v : Word) (x : Nat) (op : HostOp) (rest : List HostOp) (ts : List Turn),
    (b ≠ 4 ∨ o.toNat % 4 ≠ 0 ∨ 0x1C < o.toNat) →
    (op = .store b (s.params.regBase + o) v ∨ op = .load b (s.params.regBase + o) x) →
    s.HostTurn op rest ts → step s = .next (refuse .badHostAccess (s.setTurns ts))

/-- R31: a write of TXADDR, RXADDR, LEN or TXDATA stores the value (TXDATA its low half), a write of RXDATA, STATUS or
RESULT has no effect; BUSY or not. -/
def Obligations.HostWritesOperandRegisters : Prop :=
  ∀ (s : State) (v : Word) (rest : List HostOp) (ts : List Turn) (o : Word) (r : HostRegs),
    (o, r) ∈ [(0x04#32, { s.regs with txaddr := v }), (0x08#32, { s.regs with rxaddr := v }),
      (0x0C#32, { s.regs with len := v }), (0x10#32, { s.regs with txdata := v.extractLsb' 0 16 }),
      (0x14#32, s.regs), (0x18#32, s.regs), (0x1C#32, s.regs)] →
    s.HostTurn (.store 4 (s.params.regBase + o) v) rest ts →
      step s = .next { s.advance ts with hostProg := rest, regs := r }

/-- R14, R15, R16, R20: the fields of STATUS, and its reserved bits, in every state; and bits `[31:16]` of TXDATA and
RXDATA read as 0, whatever was written. -/
def Obligations.StatusAndDataRegisterFields : Prop :=
  (∀ s : State,
    (readReg s .status).getLsbD 0 = decide (s.eng.phase ≠ .idle) ∧
    (readReg s .status).getLsbD 1 = s.regs.done ∧
    (readReg s .status).extractLsb' 2 3 =
      (match s.eng.phase with
        | .idle => 0#3 | .waitTx => 1#3 | .aPush => 2#3 | .aPop => 3#3 | .bDrain => 4#3 | .sWaitTx => 5#3
        | .sWaitRx => 6#3) ∧
    (readReg s .status).getLsbD 5 = decide (s.eng.m = .width16) ∧
    (readReg s .status).extractLsb' 6 2 = 0#2 ∧
    (readReg s .status).extractLsb' 8 8 = s.eng.inflight ∧
    (readReg s .status).extractLsb' 16 16 = 0#16) ∧
  ∀ (s : State) (v : Word),
    (readReg (writeReg .txdata v s) .txdata).extractLsb' 16 16 = 0#16 ∧
    (readReg (writeReg .txdata v s) .txdata).extractLsb' 0 16 = v.extractLsb' 0 16 ∧
    (readReg s .rxdata).extractLsb' 16 16 = 0#16

/-- R110, R74, R60, R61, R96: a command that runs with the occupancy invariant (so every command that started under R108)
and with every buffer access admitted completes in every weakly fair run without a reset or a stop: at some state the block
is idle, DONE is set, the transceiver is quiescent, and after an XBUF RESULT is the count. Without fairness it need not: an
engine that alone is given turns while nothing has been received polls for as long as the schedule says so (V-XCHG-4). -/
def Obligations.CommandsCompleteUnderFairness : Prop :=
  (∀ r : Nat → State, IsRun r → WeaklyFair r → NoReset r →
    (r 0).OccInv → (r 0).Running → busy (r 0) = true → (r 0).stuck = false → AdmitsAll (r 0).params →
      ∃ n, busy (r n) = false ∧ (r n).regs.done = true ∧ (r n).Quiescent ∧
        ((r 0).eng.op = .xbuf → readReg (r n) .result = (r 0).eng.count)) ∧
  ∀ (s : State) (k : Nat), s.Running → s.stuck = false → s.eng.phase = .sWaitRx → s.xcvr.rxq = [] →
    s.turns = List.replicate k .engine →
      ∃ t : State, Sys2Proof.core.run k s = .next t ∧ t.eng = s.eng ∧ t.xcvr = s.xcvr ∧ t.faults = []

/-- R31, R90: no turn of the host changes the engine, the transceiver or the mode of a running command. -/
def Obligations.HostLeavesARunningCommandAlone : Prop :=
  ∀ (s t : State) (ts : List Turn), s.NextTurn .host ts → busy s = true → step s = .next t →
    t.eng = s.eng ∧ t.xcvr = s.xcvr ∧ t.cfgMode16 = s.cfgMode16 ∧ t.xifResp = s.xifResp ∧ t.peer = s.peer

/-- R31, R97: while a command runs every word written to CMD, reserved ones too, is the fault CMD_WHILE_BUSY, which changes
nothing else. -/
def Obligations.AnyCommandWordWhileBusyFaults : Prop :=
  ∀ (s : State) (v : Word) (rest : List HostOp) (ts : List Turn),
    s.HostTurn (.store 4 s.params.regBase v) rest ts → busy s = true →
      step s = .next (raiseFault .cmdWhileBusy (s.setTurns ts))

/-- R49: a reserved word written to CMD while the block is idle is refused, and does not clear DONE. -/
def Obligations.ReservedCommandIsRefused : Prop :=
  ∀ (s : State) (v : Word) (rest : List HostOp) (ts : List Turn),
    s.HostTurn (.store 4 s.params.regBase v) rest ts → busy s = false →
    v ∉ [0x00000001#32, 0x00000002#32, 0x00000006#32, 0x0000000A#32, 0x0000000E#32] →
      step s = .next (refuse .reservedCmd (s.setTurns ts))

/-- R57: a change of `cfg_mode16` while BUSY is a fault that changes nothing else; while idle it takes effect, and while
quiescent it changes nothing else; the value it has already is no change. Units the transceiver still holds at a change are
the model's choice (log entry 8): a transceiver within the new width and depths is kept, another becomes one that is. -/
def Obligations.ModeChangeRules : Prop :=
  ∀ (s : State) (b : Bool) (rest : List HostOp) (ts : List Turn), s.HostTurn (.configure b) rest ts →
    (b ≠ s.cfgMode16 → busy s = true →
      step s = .next (raiseFault .modeChangedWhileBusy (s.setTurns ts))) ∧
    (b ≠ s.cfgMode16 → busy s = false → s.Quiescent →
      step s = .next { s.advance ts with hostProg := rest, cfgMode16 := b }) ∧
    (b ≠ s.cfgMode16 → busy s = false →
      ∃ x : Transceiver, step s = .next { s.advance ts with hostProg := rest, cfgMode16 := b, xcvr := x } ∧
        XcvrOk (currentMode { s with cfgMode16 := b }) s.params x ∧
        (XcvrOk (currentMode { s with cfgMode16 := b }) s.params s.xcvr → x = s.xcvr)) ∧
    (b = s.cfgMode16 → step s = .next { s.advance ts with hostProg := rest })

/-- R79, R90: no agent but the engine issues a transaction or uses the transceiver: its queues and the response on its port
change only by a step of a running command's engine, by its own LOAD and SHIFT, at reset, and where the host changes the mode
of an idle block (log entry 8); an idle engine moves them only for a request given to it from outside, which no step of any
agent gives (the model's choice, log entry 10). -/
def Obligations.OnlyTheEngineUsesTheTransceiver : Prop :=
  ∀ s t : State, step s = .next t →
    (t.placed = s.placed ∨ (t.placed = none ∧ busy s = false ∧ nextTurn s = some .engine)) ∧
    (t.xcvr ≠ s.xcvr ∨ t.xifResp ≠ s.xifResp →
      (∃ ts, s.turns = .reset :: ts) ∨
      (nextTurn s = some .engine ∧ (busy s = true ∨ s.placed ≠ none)) ∨
      ((nextTurn s = some .load ∨ nextTurn s = some .shift) ∧ t.xifResp = s.xifResp) ∨
      (nextTurn s = some .host ∧ busy s = false ∧ t.cfgMode16 ≠ s.cfgMode16 ∧ t.xifResp = s.xifResp))

/-- R53, R76, R77: a wrapper is refused in Width16. In Width8 the first step of `exchange8bit` writes TXDATA and leaves the
write of CMD, the wait for DONE and the load of RXDATA's low byte to the host, which gives `r[7:0]`; that of
`exchangeBuffer8bit` writes the first address register of a present buffer, or LEN where both are absent, and leaves the
rest, with no write of an absent buffer's register. -/
def Obligations.WrappersExpandInWidth8Only : Prop :=
  (∀ (s : State) (op : HostOp) (rest : List HostOp) (ts : List Turn),
    ((∃ b x, op = .exchange8bit b x) ∨ ∃ tx n rx x, op = .exchangeBuffer8bit tx n rx x) →
    s.HostTurn op rest ts → s.cfgMode16 = true →
      step s = .next (refuse .wrapperInWidth16 (s.setTurns ts))) ∧
  (∀ (s : State) (b : Byte) (x : Nat) (rest : List HostOp) (ts : List Turn),
    s.HostTurn (.exchange8bit b x) rest ts → s.cfgMode16 = false →
      step s = .next { s.advance ts with
        regs := { s.regs with txdata := b.setWidth 16 }
        hostProg := .store 4 (s.params.regBase + 0x00#32) 0x00000001#32 ::
          .wait (s.params.regBase + 0x18#32) 1 1 1#32 :: .loadLow8 (s.params.regBase + 0x14#32) x :: rest }) ∧
  (∀ (s : State) (x : Nat) (rest : List HostOp) (ts : List Turn),
    s.HostTurn (.loadLow8 (s.params.regBase + 0x14#32) x) rest ts →
      step s = .next { s.advance ts with
        hostProg := rest, hostVars := setVar x ((s.regs.rxdata.extractLsb' 0 8).setWidth 32) s.hostVars }) ∧
  ∀ (s : State) (tx rx : Option Word) (n : Word) (x : Nat) (rest : List HostOp) (ts : List Turn),
    s.HostTurn (.exchangeBuffer8bit tx n rx x) rest ts → s.cfgMode16 = false →
      (∀ a b : Word, tx = some a → rx = some b → step s = .next { s.advance ts with
        regs := { s.regs with txaddr := a }
        hostProg := .store 4 (s.params.regBase + 0x08#32) b :: .store 4 (s.params.regBase + 0x0C#32) n ::
          .store 4 (s.params.regBase + 0x00#32) 0x0000000E#32 :: .wait (s.params.regBase + 0x18#32) 1 1 1#32 ::
          .load 4 (s.params.regBase + 0x1C#32) x :: rest }) ∧
      (∀ a : Word, tx = some a → rx = none → step s = .next { s.advance ts with
        regs := { s.regs with txaddr := a }
        hostProg := .store 4 (s.params.regBase + 0x0C#32) n ::
          .store 4 (s.params.regBase + 0x00#32) 0x00000006#32 :: .wait (s.params.regBase + 0x18#32) 1 1 1#32 ::
          .load 4 (s.params.regBase + 0x1C#32) x :: rest }) ∧
      (∀ b : Word, tx = none → rx = some b → step s = .next { s.advance ts with
        regs := { s.regs with rxaddr := b }
        hostProg := .store 4 (s.params.regBase + 0x0C#32) n ::
          .store 4 (s.params.regBase + 0x00#32) 0x0000000A#32 :: .wait (s.params.regBase + 0x18#32) 1 1 1#32 ::
          .load 4 (s.params.regBase + 0x1C#32) x :: rest }) ∧
      (tx = none → rx = none → step s = .next { s.advance ts with
        regs := { s.regs with len := n }
        hostProg := .store 4 (s.params.regBase + 0x00#32) 0x00000002#32 ::
          .wait (s.params.regBase + 0x18#32) 1 1 1#32 :: .load 4 (s.params.regBase + 0x1C#32) x :: rest })

/-- R53: the first step of XCHG1 writes TXDATA and leaves the rest of its expansion to the host: CMD, the wait for DONE, and
the load of RXDATA. That of XBUFW writes TXADDR and leaves RXADDR, LEN, CMD with the present buffers, the wait for DONE, and
the load of RESULT. In either mode. -/
def Obligations.PseudoOperationsExpand : Prop :=
  (∀ (s : State) (v : Word) (x : Nat) (rest : List HostOp) (ts : List Turn),
    s.HostTurn (.xchg1 v x) rest ts →
      step s = .next { s.advance ts with
        regs := { s.regs with txdata := v.extractLsb' 0 16 }
        hostProg := .store 4 (s.params.regBase + 0x00#32) 0x00000001#32 ::
          .wait (s.params.regBase + 0x18#32) 1 1 1#32 :: .load 4 (s.params.regBase + 0x14#32) x :: rest }) ∧
  ∀ (s : State) (ta n ra : Word) (txp rxp : Bool) (x : Nat) (rest : List HostOp) (ts : List Turn),
    s.HostTurn (.xbufw ta n ra txp rxp x) rest ts →
      step s = .next { s.advance ts with
        regs := { s.regs with txaddr := ta }
        hostProg := .store 4 (s.params.regBase + 0x08#32) ra :: .store 4 (s.params.regBase + 0x0C#32) n ::
          .store 4 (s.params.regBase + 0x00#32)
            (if txp then (if rxp then 0x0000000E#32 else 0x00000006#32)
             else (if rxp then 0x0000000A#32 else 0x00000002#32)) ::
          .wait (s.params.regBase + 0x18#32) 1 1 1#32 :: .load 4 (s.params.regBase + 0x1C#32) x :: rest }

/-- R52: a WAIT for DONE goes on when DONE is set and tries again at the host's next turn otherwise. -/
def Obligations.WaitForDoneHolds : Prop :=
  ∀ (s : State) (rest : List HostOp) (ts : List Turn),
    s.HostTurn (.wait (s.params.regBase + 0x18#32) 1 1 1#32) rest ts →
    (s.regs.done = true → step s = .next { s.advance ts with hostProg := rest }) ∧
    (s.regs.done = false → step s = .next (s.advance ts))

/-- R40 (log entry 17): a host store of any number of bytes puts them at rising addresses modulo `2^32`, is seen at once, and
changes no other byte and nothing else; a host load of `n` bytes gives the low 32 bits of them, little-endian, and changes
nothing but the host's variable. -/
def Obligations.HostAccessesToBufferMemory : Prop :=
  (∀ (s : State) (a : Word) (vs : List Byte) (rest : List HostOp) (ts : List Turn),
    s.HostTurn (.memStore a vs) rest ts →
    ∃ m : List Host.Cell, step s = .next { s.advance ts with hostProg := rest, mem := m } ∧
      (vs.length ≤ 2 ^ 32 → ∀ (k : Nat) (v : Byte), vs[k]? = some v → memByte m (a + BitVec.ofNat 32 k) = v) ∧
      ∀ b : Word, (∀ k < vs.length, b ≠ a + BitVec.ofNat 32 k) → memByte m b = memByte s.mem b) ∧
  ∀ (s : State) (a : Word) (n x : Nat) (rest : List HostOp) (ts : List Turn),
    s.HostTurn (.memLoad a n x) rest ts →
    ∃ v : Word, step s = .next { s.advance ts with hostProg := rest, hostVars := setVar x v s.hostVars } ∧
      ∀ k < 4, v.extractLsb' (8 * k) 8 = if k < n then memByte s.mem (a + BitVec.ofNat 32 k) else 0#8

/-! ### The transceiver -/

/-- R85: LOAD moves the oldest unit into an empty shift register, and nothing else. A scheduled LOAD that is not enabled only
uses up its turn and is counted: the model's choice (log entries 2, 13). -/
def Obligations.LoadMovesTheOldestUnit : Prop :=
  ∀ (s : State) (ts : List Turn), s.NextTurn .load ts →
    (∀ (u : Unit16) (rest : List Unit16), s.xcvr.sr = none → s.xcvr.txq = u :: rest →
      step s = .next { s.advance ts with xcvr := { s.xcvr with txq := rest, sr := some u } }) ∧
    (s.xcvr.sr ≠ none ∨ s.xcvr.txq = [] → step s = .next (s.advance ts))

/-- R86: SHIFT sends one unit and receives one, in one step; with the receive side full it is the fault RX_OVERRUN. The peer's
answer is as log entry 6 says; a scheduled SHIFT with an empty shift register only uses up its turn and is counted: the
model's choice (log entries 2, 13). -/
def Obligations.ShiftExchangesOneUnit : Prop :=
  ∀ (s : State) (ts : List Turn), s.NextTurn .shift ts →
    (∀ u : Unit16, s.xcvr.sr = some u →
      (s.xcvr.rxq.length = rxDepth s.params (currentMode s) →
        step s = .next (raiseFault .rxOverrun (s.setTurns ts))) ∧
      (s.xcvr.rxq.length ≠ rxDepth s.params (currentMode s) →
        step s = .next { s.advance ts with
          xcvr := { s.xcvr with
            sr := none, rxq := s.xcvr.rxq ++ [trunc (currentMode s) (peerAnswer s.stepNo u s.peer).1] }
          peer := (peerAnswer s.stepNo u s.peer).2 })) ∧
    (s.xcvr.sr = none → step s = .next (s.advance ts))

/-- R88, R89: with the loopback peer a step keeps the order of the units in the transceiver: it leaves the sequence as it
is, appends one, or takes the first, unless it is a reset or the host changes the mode. -/
def Obligations.LoopbackKeepsOrder : Prop :=
  ∀ s t : State, s.Inv → s.Running → s.peer = .loopback → step s = .next t → t.cfgMode16 = s.cfgMode16 →
    (∃ ts, s.turns = .reset :: ts) ∨ pipeline t.xcvr = pipeline s.xcvr ∨
      (∃ u, pipeline t.xcvr = pipeline s.xcvr ++ [u]) ∨ ∃ u, pipeline s.xcvr = u :: pipeline t.xcvr

/-! ### Memory and arithmetic -/

/-- R33: a unit is read as the byte, or the two bytes, at its address, the higher address above; a 16-bit unit is written
low byte first and reads back as written, and a write leaves every other byte alone; the address wraps (R36). -/
def Obligations.UnitsAreLittleEndian : Prop :=
  ∀ (m : List Host.Cell) (a : Word) (u : Unit16),
    memRead m a .one = (memByte m a).setWidth 16 ∧ memRead m a .two = memByte m (a + 1#32) ++ memByte m a ∧
    memByte (memWrite m a u .one) a = u.extractLsb' 0 8 ∧
    memByte (memWrite m a u .two) a = u.extractLsb' 0 8 ∧
    memByte (memWrite m a u .two) (a + 1#32) = u.extractLsb' 8 8 ∧
    memRead (memWrite m a u .two) a .two = u ∧
    memRead (memWrite m a u .one) a .one = (u.extractLsb' 0 8).setWidth 16 ∧
    (∀ b : Word, b ≠ a → memByte (memWrite m a u .one) b = memByte m b) ∧
    ∀ b : Word, b ≠ a → b ≠ a + 1#32 → memByte (memWrite m a u .two) b = memByte m b

/-- R54, R55, R56: the mode, the unit size, the truncation and the unit count. -/
def Obligations.UnitCountAndTruncation : Prop :=
  (∀ s : State, (s.cfgMode16 = true → currentMode s = .width16) ∧ (s.cfgMode16 = false → currentMode s = .width8)) ∧
  sizeBytes (sizeOfMode .width8) = 1 ∧ sizeBytes (sizeOfMode .width16) = 2 ∧
  unitbits .width8 = 8 ∧ unitbits .width16 = 16 ∧
  (∀ v : Unit16, (trunc .width8 v).toNat = v.toNat % 2 ^ 8 ∧ trunc .width16 v = v) ∧
  ∀ len : Word, unitsOf len .width8 = len ∧ (unitsOf len .width16).toNat = len.toNat / 2

/-! ### Faults, refusals, reset -/

/-- R93, R94: a step that raises a fault records its code with the phase and the step at which it arose, and changes
nothing else of the machine. -/
def Obligations.FaultingStepChangesOnlyTheRecord : Prop :=
  ∀ s t : State, s.Running → step s = .next t → t.faults ≠ [] →
    (∃ c, t.faults = [{ code := c, phase := s.eng.phase, step := s.stepNo }]) ∧
    t.regs = s.regs ∧ t.eng = s.eng ∧ t.xcvr = s.xcvr ∧ t.xifResp = s.xifResp ∧ t.cfgMode16 = s.cfgMode16 ∧
    t.mem = s.mem ∧ t.refused = s.refused ∧ t.stuck = s.stuck ∧ t.stepNo = s.stepNo ∧ t.peer = s.peer ∧
    t.hostVars = s.hostVars ∧ t.params = s.params ∧ t.placed = s.placed

/-- R94, R95 (log entry 1): after a fault or a refusal no agent has a step, until a reset. -/
def Obligations.NothingStepsAfterAStop : Prop :=
  ∀ s : State, (∀ ts, s.turns ≠ .reset :: ts) →
    (∀ (f : FaultRecord) (fs : List FaultRecord), s.faults = f :: fs → step s = .fault f.code) ∧
    (∀ r : Refusal, s.refused = some r → s.faults = [] → step s = .refused r)

/-- R6, R95: parameters that fail the test of R6 in either mode are refused. -/
def Obligations.BadConfigurationIsRefused : Prop :=
  ∀ s : State, s.faults = [] → s.refused = none → (∀ ts, s.turns ≠ .reset :: ts) →
    ¬ (1 ≤ s.params.fifoLimit ∧ s.params.fifoLimit ≤ 255 ∧
        ∀ m : Mode, s.params.fifoLimit ≤ txDepth s.params m ∧ s.params.fifoLimit ≤ rxDepth s.params m) →
      step s = .next (refuse .badConfig s)

/-- R106: reset at any time, also after a fault or a refusal, puts the block and its transceiver to the values of R106's
table and leaves `cfg_mode16` and buffer memory; the state the model starts in has those values too. -/
def Obligations.ResetPutsEveryValue : Prop :=
  (∀ (s : State) (ts : List Turn), s.turns = .reset :: ts →
    ∃ t, step s = .next t ∧
      readReg t .txaddr = 0#32 ∧ readReg t .rxaddr = 0#32 ∧ readReg t .len = 0#32 ∧ readReg t .txdata = 0#32 ∧
      readReg t .rxdata = 0#32 ∧ readReg t .result = 0#32 ∧ readReg t .status = 0#32 ∧
      t.eng = { phase := .idle, op := .xchg, m := .width8, size := .one, count := 0#32, sent := 0#32,
                inflight := 0#8, txptr := 0#32, rxptr := 0#32, txp := false, rxp := false, txunit := 0#16 } ∧
      t.faults = [] ∧ t.refused = none ∧
      t.xcvr = { txq := [], sr := none, rxq := [] } ∧
      t.cfgMode16 = s.cfgMode16 ∧ ∀ a : Word, memByte t.mem a = memByte s.mem a) ∧
  State.reset.regs = { txaddr := 0#32, rxaddr := 0#32, len := 0#32, txdata := 0#16, rxdata := 0#16, done := false } ∧
  readReg State.reset .status = 0#32 ∧ readReg State.reset .result = 0#32 ∧
  State.reset.eng = { phase := .idle, op := .xchg, m := .width8, size := .one, count := 0#32, sent := 0#32,
                      inflight := 0#8, txptr := 0#32, rxptr := 0#32, txp := false, rxp := false, txunit := 0#16 } ∧
  State.reset.faults = [] ∧ State.reset.refused = none ∧ State.reset.xcvr = { txq := [], sr := none, rxq := [] }

/-- The two invariants hold in the state the model starts in. -/
def Obligations.InvariantsHoldAtReset : Prop := State.reset.Inv ∧ State.reset.OccInv

/-- R22, R25, R57, R72, R80: every step of any agent keeps the invariant of the machine. -/
def Obligations.EveryStepKeepsTheInvariant : Prop := ∀ s t : State, s.Inv → step s = .next t → t.Inv

/-- R26, R73, R108: in a run in which no request is given to the engine from outside, so that only the commands' steps use the
transceiver, every step keeps the occupancy invariant: in a buffered exchange the in-flight count is the number of units in
the transceiver, and between commands the transceiver holds none. In an engine stuck at a refused receive write, between the
READ_UNIT and the decrement, the count is that number plus the one lost unit (R67, R68, R70; that R73 does not speak of
this state is the model's reading, log entry 7). STATUS.INFLIGHT shows it (R26). -/
def Obligations.EveryStepKeepsTheOccupancy : Prop :=
  (∀ s t : State, s.OccInv → step s = .next t → t.OccInv) ∧
  ∀ s : State, s.OccInv → inXbuf s.eng.phase = true →
    (s.stuck = false ∨ s.eng.phase = .aPush →
      ((readReg s .status).extractLsb' 8 8).toNat = occupancy s.xcvr) ∧
    (s.stuck = true → s.eng.phase ≠ .aPush →
      ((readReg s .status).extractLsb' 8 8).toNat = occupancy s.xcvr + 1)

/-- R93: under the occupancy invariant the only faults a step can raise are the three the host causes. -/
def Obligations.TransferNeverFaults : Prop :=
  ∀ s t : State, s.OccInv → s.Running → step s = .next t →
    ∀ f ∈ t.faults, f.code = .cmdWhileBusy ∨ f.code = .modeChangedWhileBusy ∨ f.code = .misalignedBuffer

/-- R93: codes 5 and 6 are never raised, whatever the host does and whatever the transceiver holds, where no request is given
to an idle engine from outside (log entry 10). -/
def Obligations.PopFaultsAreUnreachable : Prop :=
  ∀ s t : State, s.Inv → s.Running → (busy s = false → s.placed = none) → step s = .next t →
    ∀ f ∈ t.faults, f.code ≠ .rxReadWhenEmpty ∧ f.code ≠ .inflightUnderflow

/-- R5, R18, R57: no step changes the parameters, and `cfg_mode16` changes only in a turn of the host whose next operation
sets it, and only of an idle block. -/
def Obligations.ConfigurationIsNeverWritten : Prop :=
  ∀ s t : State, step s = .next t →
    t.params = s.params ∧
    (t.cfgMode16 ≠ s.cfgMode16 →
      busy s = false ∧ (∃ rest, s.hostProg = .configure t.cfgMode16 :: rest) ∧
        (s.turns = [] ∨ ∃ ts, s.turns = .host :: ts))

/-- R15: RXDATA changes only when an XCHG completes, and otherwise only at reset. -/
def Obligations.RxdataChangesOnlyWhenAnXchgCompletes : Prop :=
  ∀ s t : State, step s = .next t → t.regs.rxdata ≠ s.regs.rxdata →
    (∃ ts, s.turns = .reset :: ts) ∨
      (s.eng.phase = .sWaitRx ∧ t.eng.phase = .idle ∧ t.regs.done = true ∧
        ∃ r rest, s.xcvr.rxq = r :: rest ∧ t.regs.rxdata = trunc s.eng.m r)

/-- R79, R105, R111 (log entries 2, 10, 14): the next turn is the schedule's first; with an empty schedule it is one of the
agents that can move, whichever one in the model's free choice, and there is none only where no agent can. The host can
move while it has an operation left, the engine while a command runs that no refused access holds, LOAD and SHIFT as R85 and
R86 say. That an idle engine given a request from outside can move too is the model's choice (log entry 10): R105 gives an
IDLE block no step. With no turn and no agent that can move the state stays, units received or
not. -/
def Obligations.NextTurnIsScheduledOrEnabled : Prop :=
  ∀ s : State,
    (∀ (t : Turn) (ts : List Turn), s.turns = t :: ts → nextTurn s = some t) ∧
    (s.turns = [] →
      (∀ t : Turn, nextTurn s = some t → t ∈ enabledTurns s) ∧
      (∀ t : Turn, enabledTurns s = [t] → nextTurn s = some t) ∧
      (nextTurn s = none ↔ enabledTurns s = []) ∧
      (s.Running → enabledTurns s = [] → step s = .next s)) ∧
    (Turn.host ∈ enabledTurns s ↔ s.hostProg ≠ []) ∧
    (Turn.engine ∈ enabledTurns s ↔
      (busy s = true ∧ s.stuck = false) ∨ (busy s = false ∧ s.placed ≠ none)) ∧
    (Turn.load ∈ enabledTurns s ↔ s.xcvr.sr = none ∧ s.xcvr.txq ≠ []) ∧
    (Turn.shift ∈ enabledTurns s ↔ s.xcvr.sr ≠ none) ∧
    Turn.reset ∉ enabledTurns s
end

