-- ==== Sys2Proof/Laws/Operands.lean ====
section
/-! SUPPORT. The operand forms: the fields of a response, truncation, the register a host access names, admitted
parameters, and what the transmit source and the receive sink can answer. -/

namespace Sys2Proof.Machine

@[simp] theorem respFlag_respWord (f : Bool) (d : Unit16) : respFlag (respWord f d) = f := by
  unfold respFlag respWord
  rw [BitVec.getLsbD_append]; cases f <;> simp

@[simp] theorem respData_respWord (f : Bool) (d : Unit16) : respData (respWord f d) = d := by
  unfold respData respWord
  apply BitVec.eq_of_getLsbD_eq
  intro i hi
  rw [BitVec.getLsbD_extractLsb', BitVec.getLsbD_append]
  simp [hi]

/-- Truncating twice is truncating once (R55). -/
@[simp] theorem trunc_trunc (m : Mode) (u : Unit16) : trunc m (trunc m u) = trunc m u := by
  cases m
  · apply BitVec.eq_of_getLsbD_eq
    intro i hi
    simp only [trunc, BitVec.getLsbD_setWidth, BitVec.getLsbD_extractLsb']
    by_cases h : i < 8 <;> simp [h]
  · rfl

/-- The offset of an address counted from the window's base. -/
theorem regAt_base (p : Params) (b : Nat) (o : Word) : regAt p b (p.regBase + o) = regAtOffset b o := by
  have h : p.regBase + o - p.regBase = o := by
    rw [BitVec.add_comm, BitVec.add_sub_cancel]
  simp [regAt, h]

/-- Every register is found at its own address (R9). -/
@[simp] theorem regAt_regAddr (p : Params) (r : HostReg) : regAt p 4 (regAddr p r) = some r := by
  rw [regAddr, regAt_base]; cases r <;> decide

/-- What admitted parameters satisfy (R6). -/
theorem paramsAdmitted_iff (p : Params) : paramsAdmitted p = true ↔
    1 ≤ p.fifoLimit ∧ p.fifoLimit ≤ 255 ∧ ∀ m, p.fifoLimit ≤ txDepth p m ∧ p.fifoLimit ≤ rxDepth p m := by
  simp only [paramsAdmitted, Bool.and_eq_true, decide_eq_true_eq]
  constructor
  · rintro ⟨⟨⟨⟨⟨h1, h2⟩, h3⟩, h4⟩, h5⟩, h6⟩
    refine ⟨h1, h2, fun m => ?_⟩
    cases m <;> simp [txDepth, rxDepth, *]
  · rintro ⟨h1, h2, h⟩
    have h8 := h .width8
    have h16 := h .width16
    simp only [txDepth, rxDepth] at h8 h16
    simp [h1, h2, h8.1, h8.2, h16.1, h16.2]

/-- What the receive sink can do: nothing for an absent buffer, else one admitted write and the pointer's step. -/
theorem rxSink_cases {r : Unit16} {s t : State} (h : rxSink r s = some t) :
    (s.eng.rxp = false ∧ t = s) ∨
    (s.eng.rxp = true ∧ memAdmit s.params s.eng.rxptr s.eng.size .write = true ∧
      t = { s with mem := memWrite s.mem s.eng.rxptr r s.eng.size,
                   eng := { s.eng with rxptr := nextUnit s.eng.rxptr s.eng.size } }) := by
  unfold rxSink at h
  split at h
  · next hp =>
    split at h
    · next ha => exact .inr ⟨hp, ha, (Option.some.inj h).symm⟩
    · simp at h
  · next hp => exact .inl ⟨by simpa using hp, (Option.some.inj h).symm⟩

end Sys2Proof.Machine
end

