-- ==== Sys2Proof/Laws/State.lean ====
section
/-! SUPPORT. What each named update leaves in each field of the state: one lemma a field and update, so that no proof
unfolds a record update. -/

namespace Sys2Proof.Machine

variable (s : State)

/-! ### setPhase -/

@[simp] theorem setPhase_regs (p : Phase) : (s.setPhase p).regs = s.regs := rfl
@[simp] theorem setPhase_eng (p : Phase) : (s.setPhase p).eng = { s.eng with phase := p } := rfl
@[simp] theorem setPhase_xcvr (p : Phase) : (s.setPhase p).xcvr = s.xcvr := rfl
@[simp] theorem setPhase_xifResp (p : Phase) : (s.setPhase p).xifResp = s.xifResp := rfl
@[simp] theorem setPhase_cfgMode16 (p : Phase) : (s.setPhase p).cfgMode16 = s.cfgMode16 := rfl
@[simp] theorem setPhase_mem (p : Phase) : (s.setPhase p).mem = s.mem := rfl
@[simp] theorem setPhase_faults (p : Phase) : (s.setPhase p).faults = s.faults := rfl
@[simp] theorem setPhase_refused (p : Phase) : (s.setPhase p).refused = s.refused := rfl
@[simp] theorem setPhase_params (p : Phase) : (s.setPhase p).params = s.params := rfl
@[simp] theorem setPhase_stuck (p : Phase) : (s.setPhase p).stuck = s.stuck := rfl
@[simp] theorem setPhase_stepNo (p : Phase) : (s.setPhase p).stepNo = s.stepNo := rfl
@[simp] theorem setPhase_turns (p : Phase) : (s.setPhase p).turns = s.turns := rfl
@[simp] theorem setPhase_hostProg (p : Phase) : (s.setPhase p).hostProg = s.hostProg := rfl
@[simp] theorem setPhase_hostVars (p : Phase) : (s.setPhase p).hostVars = s.hostVars := rfl
@[simp] theorem setPhase_peer (p : Phase) : (s.setPhase p).peer = s.peer := rfl
@[simp] theorem setPhase_placed (p : Phase) : (s.setPhase p).placed = s.placed := rfl

/-! ### setResp -/

@[simp] theorem setResp_regs (r : XifResponse) : (s.setResp r).regs = s.regs := rfl
@[simp] theorem setResp_eng (r : XifResponse) : (s.setResp r).eng = s.eng := rfl
@[simp] theorem setResp_xcvr (r : XifResponse) : (s.setResp r).xcvr = s.xcvr := rfl
@[simp] theorem setResp_xifResp (r : XifResponse) : (s.setResp r).xifResp = r := rfl
@[simp] theorem setResp_cfgMode16 (r : XifResponse) : (s.setResp r).cfgMode16 = s.cfgMode16 := rfl
@[simp] theorem setResp_mem (r : XifResponse) : (s.setResp r).mem = s.mem := rfl
@[simp] theorem setResp_faults (r : XifResponse) : (s.setResp r).faults = s.faults := rfl
@[simp] theorem setResp_refused (r : XifResponse) : (s.setResp r).refused = s.refused := rfl
@[simp] theorem setResp_params (r : XifResponse) : (s.setResp r).params = s.params := rfl
@[simp] theorem setResp_stuck (r : XifResponse) : (s.setResp r).stuck = s.stuck := rfl
@[simp] theorem setResp_stepNo (r : XifResponse) : (s.setResp r).stepNo = s.stepNo := rfl
@[simp] theorem setResp_turns (r : XifResponse) : (s.setResp r).turns = s.turns := rfl
@[simp] theorem setResp_hostProg (r : XifResponse) : (s.setResp r).hostProg = s.hostProg := rfl
@[simp] theorem setResp_hostVars (r : XifResponse) : (s.setResp r).hostVars = s.hostVars := rfl
@[simp] theorem setResp_peer (r : XifResponse) : (s.setResp r).peer = s.peer := rfl
@[simp] theorem setResp_placed (r : XifResponse) : (s.setResp r).placed = s.placed := rfl

/-! ### setTxq -/

@[simp] theorem setTxq_regs (q : List Unit16) : (s.setTxq q).regs = s.regs := rfl
@[simp] theorem setTxq_eng (q : List Unit16) : (s.setTxq q).eng = s.eng := rfl
@[simp] theorem setTxq_xcvr (q : List Unit16) : (s.setTxq q).xcvr = { s.xcvr with txq := q } := rfl
@[simp] theorem setTxq_xifResp (q : List Unit16) : (s.setTxq q).xifResp = s.xifResp := rfl
@[simp] theorem setTxq_cfgMode16 (q : List Unit16) : (s.setTxq q).cfgMode16 = s.cfgMode16 := rfl
@[simp] theorem setTxq_mem (q : List Unit16) : (s.setTxq q).mem = s.mem := rfl
@[simp] theorem setTxq_faults (q : List Unit16) : (s.setTxq q).faults = s.faults := rfl
@[simp] theorem setTxq_refused (q : List Unit16) : (s.setTxq q).refused = s.refused := rfl
@[simp] theorem setTxq_params (q : List Unit16) : (s.setTxq q).params = s.params := rfl
@[simp] theorem setTxq_stuck (q : List Unit16) : (s.setTxq q).stuck = s.stuck := rfl
@[simp] theorem setTxq_stepNo (q : List Unit16) : (s.setTxq q).stepNo = s.stepNo := rfl
@[simp] theorem setTxq_turns (q : List Unit16) : (s.setTxq q).turns = s.turns := rfl
@[simp] theorem setTxq_hostProg (q : List Unit16) : (s.setTxq q).hostProg = s.hostProg := rfl
@[simp] theorem setTxq_hostVars (q : List Unit16) : (s.setTxq q).hostVars = s.hostVars := rfl
@[simp] theorem setTxq_peer (q : List Unit16) : (s.setTxq q).peer = s.peer := rfl
@[simp] theorem setTxq_placed (q : List Unit16) : (s.setTxq q).placed = s.placed := rfl

/-! ### setRxq -/

@[simp] theorem setRxq_regs (q : List Unit16) : (s.setRxq q).regs = s.regs := rfl
@[simp] theorem setRxq_eng (q : List Unit16) : (s.setRxq q).eng = s.eng := rfl
@[simp] theorem setRxq_xcvr (q : List Unit16) : (s.setRxq q).xcvr = { s.xcvr with rxq := q } := rfl
@[simp] theorem setRxq_xifResp (q : List Unit16) : (s.setRxq q).xifResp = s.xifResp := rfl
@[simp] theorem setRxq_cfgMode16 (q : List Unit16) : (s.setRxq q).cfgMode16 = s.cfgMode16 := rfl
@[simp] theorem setRxq_mem (q : List Unit16) : (s.setRxq q).mem = s.mem := rfl
@[simp] theorem setRxq_faults (q : List Unit16) : (s.setRxq q).faults = s.faults := rfl
@[simp] theorem setRxq_refused (q : List Unit16) : (s.setRxq q).refused = s.refused := rfl
@[simp] theorem setRxq_params (q : List Unit16) : (s.setRxq q).params = s.params := rfl
@[simp] theorem setRxq_stuck (q : List Unit16) : (s.setRxq q).stuck = s.stuck := rfl
@[simp] theorem setRxq_stepNo (q : List Unit16) : (s.setRxq q).stepNo = s.stepNo := rfl
@[simp] theorem setRxq_turns (q : List Unit16) : (s.setRxq q).turns = s.turns := rfl
@[simp] theorem setRxq_hostProg (q : List Unit16) : (s.setRxq q).hostProg = s.hostProg := rfl
@[simp] theorem setRxq_hostVars (q : List Unit16) : (s.setRxq q).hostVars = s.hostVars := rfl
@[simp] theorem setRxq_peer (q : List Unit16) : (s.setRxq q).peer = s.peer := rfl
@[simp] theorem setRxq_placed (q : List Unit16) : (s.setRxq q).placed = s.placed := rfl

/-! ### setMem -/

@[simp] theorem setMem_regs (m : List Host.Cell) : (s.setMem m).regs = s.regs := rfl
@[simp] theorem setMem_eng (m : List Host.Cell) : (s.setMem m).eng = s.eng := rfl
@[simp] theorem setMem_xcvr (m : List Host.Cell) : (s.setMem m).xcvr = s.xcvr := rfl
@[simp] theorem setMem_xifResp (m : List Host.Cell) : (s.setMem m).xifResp = s.xifResp := rfl
@[simp] theorem setMem_cfgMode16 (m : List Host.Cell) : (s.setMem m).cfgMode16 = s.cfgMode16 := rfl
@[simp] theorem setMem_mem (m : List Host.Cell) : (s.setMem m).mem = m := rfl
@[simp] theorem setMem_faults (m : List Host.Cell) : (s.setMem m).faults = s.faults := rfl
@[simp] theorem setMem_refused (m : List Host.Cell) : (s.setMem m).refused = s.refused := rfl
@[simp] theorem setMem_params (m : List Host.Cell) : (s.setMem m).params = s.params := rfl
@[simp] theorem setMem_stuck (m : List Host.Cell) : (s.setMem m).stuck = s.stuck := rfl
@[simp] theorem setMem_stepNo (m : List Host.Cell) : (s.setMem m).stepNo = s.stepNo := rfl
@[simp] theorem setMem_turns (m : List Host.Cell) : (s.setMem m).turns = s.turns := rfl
@[simp] theorem setMem_hostProg (m : List Host.Cell) : (s.setMem m).hostProg = s.hostProg := rfl
@[simp] theorem setMem_hostVars (m : List Host.Cell) : (s.setMem m).hostVars = s.hostVars := rfl
@[simp] theorem setMem_peer (m : List Host.Cell) : (s.setMem m).peer = s.peer := rfl
@[simp] theorem setMem_placed (m : List Host.Cell) : (s.setMem m).placed = s.placed := rfl

/-! ### setStuck -/

@[simp] theorem setStuck_regs : (s.setStuck).regs = s.regs := rfl
@[simp] theorem setStuck_eng : (s.setStuck).eng = s.eng := rfl
@[simp] theorem setStuck_xcvr : (s.setStuck).xcvr = s.xcvr := rfl
@[simp] theorem setStuck_xifResp : (s.setStuck).xifResp = s.xifResp := rfl
@[simp] theorem setStuck_cfgMode16 : (s.setStuck).cfgMode16 = s.cfgMode16 := rfl
@[simp] theorem setStuck_mem : (s.setStuck).mem = s.mem := rfl
@[simp] theorem setStuck_faults : (s.setStuck).faults = s.faults := rfl
@[simp] theorem setStuck_refused : (s.setStuck).refused = s.refused := rfl
@[simp] theorem setStuck_params : (s.setStuck).params = s.params := rfl
@[simp] theorem setStuck_stuck : (s.setStuck).stuck = true := rfl
@[simp] theorem setStuck_stepNo : (s.setStuck).stepNo = s.stepNo := rfl
@[simp] theorem setStuck_turns : (s.setStuck).turns = s.turns := rfl
@[simp] theorem setStuck_hostProg : (s.setStuck).hostProg = s.hostProg := rfl
@[simp] theorem setStuck_hostVars : (s.setStuck).hostVars = s.hostVars := rfl
@[simp] theorem setStuck_peer : (s.setStuck).peer = s.peer := rfl
@[simp] theorem setStuck_placed : (s.setStuck).placed = s.placed := rfl

/-! ### setTurns -/

@[simp] theorem setTurns_regs (ts : List Turn) : (s.setTurns ts).regs = s.regs := rfl
@[simp] theorem setTurns_eng (ts : List Turn) : (s.setTurns ts).eng = s.eng := rfl
@[simp] theorem setTurns_xcvr (ts : List Turn) : (s.setTurns ts).xcvr = s.xcvr := rfl
@[simp] theorem setTurns_xifResp (ts : List Turn) : (s.setTurns ts).xifResp = s.xifResp := rfl
@[simp] theorem setTurns_cfgMode16 (ts : List Turn) : (s.setTurns ts).cfgMode16 = s.cfgMode16 := rfl
@[simp] theorem setTurns_mem (ts : List Turn) : (s.setTurns ts).mem = s.mem := rfl
@[simp] theorem setTurns_faults (ts : List Turn) : (s.setTurns ts).faults = s.faults := rfl
@[simp] theorem setTurns_refused (ts : List Turn) : (s.setTurns ts).refused = s.refused := rfl
@[simp] theorem setTurns_params (ts : List Turn) : (s.setTurns ts).params = s.params := rfl
@[simp] theorem setTurns_stuck (ts : List Turn) : (s.setTurns ts).stuck = s.stuck := rfl
@[simp] theorem setTurns_stepNo (ts : List Turn) : (s.setTurns ts).stepNo = s.stepNo := rfl
@[simp] theorem setTurns_turns (ts : List Turn) : (s.setTurns ts).turns = ts := rfl
@[simp] theorem setTurns_hostProg (ts : List Turn) : (s.setTurns ts).hostProg = s.hostProg := rfl
@[simp] theorem setTurns_hostVars (ts : List Turn) : (s.setTurns ts).hostVars = s.hostVars := rfl
@[simp] theorem setTurns_peer (ts : List Turn) : (s.setTurns ts).peer = s.peer := rfl
@[simp] theorem setTurns_placed (ts : List Turn) : (s.setTurns ts).placed = s.placed := rfl

/-! ### setProg -/

@[simp] theorem setProg_regs (ops : List HostOp) : (s.setProg ops).regs = s.regs := rfl
@[simp] theorem setProg_eng (ops : List HostOp) : (s.setProg ops).eng = s.eng := rfl
@[simp] theorem setProg_xcvr (ops : List HostOp) : (s.setProg ops).xcvr = s.xcvr := rfl
@[simp] theorem setProg_xifResp (ops : List HostOp) : (s.setProg ops).xifResp = s.xifResp := rfl
@[simp] theorem setProg_cfgMode16 (ops : List HostOp) : (s.setProg ops).cfgMode16 = s.cfgMode16 := rfl
@[simp] theorem setProg_mem (ops : List HostOp) : (s.setProg ops).mem = s.mem := rfl
@[simp] theorem setProg_faults (ops : List HostOp) : (s.setProg ops).faults = s.faults := rfl
@[simp] theorem setProg_refused (ops : List HostOp) : (s.setProg ops).refused = s.refused := rfl
@[simp] theorem setProg_params (ops : List HostOp) : (s.setProg ops).params = s.params := rfl
@[simp] theorem setProg_stuck (ops : List HostOp) : (s.setProg ops).stuck = s.stuck := rfl
@[simp] theorem setProg_stepNo (ops : List HostOp) : (s.setProg ops).stepNo = s.stepNo := rfl
@[simp] theorem setProg_turns (ops : List HostOp) : (s.setProg ops).turns = s.turns := rfl
@[simp] theorem setProg_hostProg (ops : List HostOp) : (s.setProg ops).hostProg = ops := rfl
@[simp] theorem setProg_hostVars (ops : List HostOp) : (s.setProg ops).hostVars = s.hostVars := rfl
@[simp] theorem setProg_peer (ops : List HostOp) : (s.setProg ops).peer = s.peer := rfl
@[simp] theorem setProg_placed (ops : List HostOp) : (s.setProg ops).placed = s.placed := rfl

/-! ### complete -/

@[simp] theorem complete_regs : (s.complete).regs = { s.regs with done := true } := rfl
@[simp] theorem complete_eng : (s.complete).eng = { s.eng with phase := .idle } := rfl
@[simp] theorem complete_xcvr : (s.complete).xcvr = s.xcvr := rfl
@[simp] theorem complete_xifResp : (s.complete).xifResp = s.xifResp := rfl
@[simp] theorem complete_cfgMode16 : (s.complete).cfgMode16 = s.cfgMode16 := rfl
@[simp] theorem complete_mem : (s.complete).mem = s.mem := rfl
@[simp] theorem complete_faults : (s.complete).faults = s.faults := rfl
@[simp] theorem complete_refused : (s.complete).refused = s.refused := rfl
@[simp] theorem complete_params : (s.complete).params = s.params := rfl
@[simp] theorem complete_stuck : (s.complete).stuck = s.stuck := rfl
@[simp] theorem complete_stepNo : (s.complete).stepNo = s.stepNo := rfl
@[simp] theorem complete_turns : (s.complete).turns = s.turns := rfl
@[simp] theorem complete_hostProg : (s.complete).hostProg = s.hostProg := rfl
@[simp] theorem complete_hostVars : (s.complete).hostVars = s.hostVars := rfl
@[simp] theorem complete_peer : (s.complete).peer = s.peer := rfl
@[simp] theorem complete_placed : (s.complete).placed = s.placed := rfl

/-! ### assign -/

@[simp] theorem assign_regs (x : Nat) (v : Word) : (s.assign x v).regs = s.regs := rfl
@[simp] theorem assign_eng (x : Nat) (v : Word) : (s.assign x v).eng = s.eng := rfl
@[simp] theorem assign_xcvr (x : Nat) (v : Word) : (s.assign x v).xcvr = s.xcvr := rfl
@[simp] theorem assign_xifResp (x : Nat) (v : Word) : (s.assign x v).xifResp = s.xifResp := rfl
@[simp] theorem assign_cfgMode16 (x : Nat) (v : Word) : (s.assign x v).cfgMode16 = s.cfgMode16 := rfl
@[simp] theorem assign_mem (x : Nat) (v : Word) : (s.assign x v).mem = s.mem := rfl
@[simp] theorem assign_faults (x : Nat) (v : Word) : (s.assign x v).faults = s.faults := rfl
@[simp] theorem assign_refused (x : Nat) (v : Word) : (s.assign x v).refused = s.refused := rfl
@[simp] theorem assign_params (x : Nat) (v : Word) : (s.assign x v).params = s.params := rfl
@[simp] theorem assign_stuck (x : Nat) (v : Word) : (s.assign x v).stuck = s.stuck := rfl
@[simp] theorem assign_stepNo (x : Nat) (v : Word) : (s.assign x v).stepNo = s.stepNo := rfl
@[simp] theorem assign_turns (x : Nat) (v : Word) : (s.assign x v).turns = s.turns := rfl
@[simp] theorem assign_hostProg (x : Nat) (v : Word) : (s.assign x v).hostProg = s.hostProg := rfl
@[simp] theorem assign_hostVars (x : Nat) (v : Word) : (s.assign x v).hostVars = setVar x v s.hostVars := rfl
@[simp] theorem assign_peer (x : Nat) (v : Word) : (s.assign x v).peer = s.peer := rfl
@[simp] theorem assign_placed (x : Nat) (v : Word) : (s.assign x v).placed = s.placed := rfl

/-! ### raiseFault -/

@[simp] theorem raiseFault_regs (c : Fault) : (raiseFault c s).regs = s.regs := rfl
@[simp] theorem raiseFault_eng (c : Fault) : (raiseFault c s).eng = s.eng := rfl
@[simp] theorem raiseFault_xcvr (c : Fault) : (raiseFault c s).xcvr = s.xcvr := rfl
@[simp] theorem raiseFault_xifResp (c : Fault) : (raiseFault c s).xifResp = s.xifResp := rfl
@[simp] theorem raiseFault_cfgMode16 (c : Fault) : (raiseFault c s).cfgMode16 = s.cfgMode16 := rfl
@[simp] theorem raiseFault_mem (c : Fault) : (raiseFault c s).mem = s.mem := rfl
@[simp] theorem raiseFault_faults (c : Fault) : (raiseFault c s).faults = addFault { code := c, phase := s.eng.phase, step := s.stepNo } s.faults := rfl
@[simp] theorem raiseFault_refused (c : Fault) : (raiseFault c s).refused = s.refused := rfl
@[simp] theorem raiseFault_params (c : Fault) : (raiseFault c s).params = s.params := rfl
@[simp] theorem raiseFault_stuck (c : Fault) : (raiseFault c s).stuck = s.stuck := rfl
@[simp] theorem raiseFault_stepNo (c : Fault) : (raiseFault c s).stepNo = s.stepNo := rfl
@[simp] theorem raiseFault_turns (c : Fault) : (raiseFault c s).turns = s.turns := rfl
@[simp] theorem raiseFault_hostProg (c : Fault) : (raiseFault c s).hostProg = s.hostProg := rfl
@[simp] theorem raiseFault_hostVars (c : Fault) : (raiseFault c s).hostVars = s.hostVars := rfl
@[simp] theorem raiseFault_peer (c : Fault) : (raiseFault c s).peer = s.peer := rfl
@[simp] theorem raiseFault_placed (c : Fault) : (raiseFault c s).placed = s.placed := rfl

/-! ### refuse -/

@[simp] theorem refuse_regs (r : Refusal) : (refuse r s).regs = s.regs := rfl
@[simp] theorem refuse_eng (r : Refusal) : (refuse r s).eng = s.eng := rfl
@[simp] theorem refuse_xcvr (r : Refusal) : (refuse r s).xcvr = s.xcvr := rfl
@[simp] theorem refuse_xifResp (r : Refusal) : (refuse r s).xifResp = s.xifResp := rfl
@[simp] theorem refuse_cfgMode16 (r : Refusal) : (refuse r s).cfgMode16 = s.cfgMode16 := rfl
@[simp] theorem refuse_mem (r : Refusal) : (refuse r s).mem = s.mem := rfl
@[simp] theorem refuse_faults (r : Refusal) : (refuse r s).faults = s.faults := rfl
@[simp] theorem refuse_refused (r : Refusal) : (refuse r s).refused = some r := rfl
@[simp] theorem refuse_params (r : Refusal) : (refuse r s).params = s.params := rfl
@[simp] theorem refuse_stuck (r : Refusal) : (refuse r s).stuck = s.stuck := rfl
@[simp] theorem refuse_stepNo (r : Refusal) : (refuse r s).stepNo = s.stepNo := rfl
@[simp] theorem refuse_turns (r : Refusal) : (refuse r s).turns = s.turns := rfl
@[simp] theorem refuse_hostProg (r : Refusal) : (refuse r s).hostProg = s.hostProg := rfl
@[simp] theorem refuse_hostVars (r : Refusal) : (refuse r s).hostVars = s.hostVars := rfl
@[simp] theorem refuse_peer (r : Refusal) : (refuse r s).peer = s.peer := rfl
@[simp] theorem refuse_placed (r : Refusal) : (refuse r s).placed = s.placed := rfl

/-! ### resetBlock -/

@[simp] theorem resetBlock_regs : (resetBlock s).regs = HostRegs.reset := rfl
@[simp] theorem resetBlock_eng : (resetBlock s).eng = Engine.reset := rfl
@[simp] theorem resetBlock_xcvr : (resetBlock s).xcvr = Transceiver.reset := rfl
@[simp] theorem resetBlock_xifResp : (resetBlock s).xifResp = 0#17 := rfl
@[simp] theorem resetBlock_cfgMode16 : (resetBlock s).cfgMode16 = s.cfgMode16 := rfl
@[simp] theorem resetBlock_mem : (resetBlock s).mem = s.mem := rfl
@[simp] theorem resetBlock_faults : (resetBlock s).faults = [] := rfl
@[simp] theorem resetBlock_refused : (resetBlock s).refused = none := rfl
@[simp] theorem resetBlock_params : (resetBlock s).params = s.params := rfl
@[simp] theorem resetBlock_stuck : (resetBlock s).stuck = false := rfl
@[simp] theorem resetBlock_stepNo : (resetBlock s).stepNo = s.stepNo := rfl
@[simp] theorem resetBlock_turns : (resetBlock s).turns = s.turns := rfl
@[simp] theorem resetBlock_hostProg : (resetBlock s).hostProg = s.hostProg := rfl
@[simp] theorem resetBlock_hostVars : (resetBlock s).hostVars = s.hostVars := rfl
@[simp] theorem resetBlock_peer : (resetBlock s).peer = s.peer := rfl
@[simp] theorem resetBlock_placed : (resetBlock s).placed = s.placed := rfl

/-! ### countPush -/

@[simp] theorem countPush_regs : (countPush s).regs = s.regs := rfl
@[simp] theorem countPush_eng : (countPush s).eng = { s.eng with txptr := txptrAfterPush s.eng, sent := s.eng.sent + 1#32, inflight := s.eng.inflight + 1#8 } := rfl
@[simp] theorem countPush_xcvr : (countPush s).xcvr = s.xcvr := rfl
@[simp] theorem countPush_xifResp : (countPush s).xifResp = s.xifResp := rfl
@[simp] theorem countPush_cfgMode16 : (countPush s).cfgMode16 = s.cfgMode16 := rfl
@[simp] theorem countPush_mem : (countPush s).mem = s.mem := rfl
@[simp] theorem countPush_faults : (countPush s).faults = s.faults := rfl
@[simp] theorem countPush_refused : (countPush s).refused = s.refused := rfl
@[simp] theorem countPush_params : (countPush s).params = s.params := rfl
@[simp] theorem countPush_stuck : (countPush s).stuck = s.stuck := rfl
@[simp] theorem countPush_stepNo : (countPush s).stepNo = s.stepNo := rfl
@[simp] theorem countPush_turns : (countPush s).turns = s.turns := rfl
@[simp] theorem countPush_hostProg : (countPush s).hostProg = s.hostProg := rfl
@[simp] theorem countPush_hostVars : (countPush s).hostVars = s.hostVars := rfl
@[simp] theorem countPush_peer : (countPush s).peer = s.peer := rfl
@[simp] theorem countPush_placed : (countPush s).placed = s.placed := rfl

/-! ### countPop -/

@[simp] theorem countPop_regs : (countPop s).regs = s.regs := rfl
@[simp] theorem countPop_eng : (countPop s).eng = { s.eng with inflight := s.eng.inflight - 1#8 } := rfl
@[simp] theorem countPop_xcvr : (countPop s).xcvr = s.xcvr := rfl
@[simp] theorem countPop_xifResp : (countPop s).xifResp = s.xifResp := rfl
@[simp] theorem countPop_cfgMode16 : (countPop s).cfgMode16 = s.cfgMode16 := rfl
@[simp] theorem countPop_mem : (countPop s).mem = s.mem := rfl
@[simp] theorem countPop_faults : (countPop s).faults = s.faults := rfl
@[simp] theorem countPop_refused : (countPop s).refused = s.refused := rfl
@[simp] theorem countPop_params : (countPop s).params = s.params := rfl
@[simp] theorem countPop_stuck : (countPop s).stuck = s.stuck := rfl
@[simp] theorem countPop_stepNo : (countPop s).stepNo = s.stepNo := rfl
@[simp] theorem countPop_turns : (countPop s).turns = s.turns := rfl
@[simp] theorem countPop_hostProg : (countPop s).hostProg = s.hostProg := rfl
@[simp] theorem countPop_hostVars : (countPop s).hostVars = s.hostVars := rfl
@[simp] theorem countPop_peer : (countPop s).peer = s.peer := rfl
@[simp] theorem countPop_placed : (countPop s).placed = s.placed := rfl

/-! ### pollTxfull -/

@[simp] theorem pollTxfull_regs : (pollTxfull s).regs = s.regs := rfl
@[simp] theorem pollTxfull_eng : (pollTxfull s).eng = s.eng := rfl
@[simp] theorem pollTxfull_xcvr : (pollTxfull s).xcvr = s.xcvr := rfl
@[simp] theorem pollTxfull_xifResp : (pollTxfull s).xifResp = respWord (txfull s) 0#16 := rfl
@[simp] theorem pollTxfull_cfgMode16 : (pollTxfull s).cfgMode16 = s.cfgMode16 := rfl
@[simp] theorem pollTxfull_mem : (pollTxfull s).mem = s.mem := rfl
@[simp] theorem pollTxfull_faults : (pollTxfull s).faults = s.faults := rfl
@[simp] theorem pollTxfull_refused : (pollTxfull s).refused = s.refused := rfl
@[simp] theorem pollTxfull_params : (pollTxfull s).params = s.params := rfl
@[simp] theorem pollTxfull_stuck : (pollTxfull s).stuck = s.stuck := rfl
@[simp] theorem pollTxfull_stepNo : (pollTxfull s).stepNo = s.stepNo := rfl
@[simp] theorem pollTxfull_turns : (pollTxfull s).turns = s.turns := rfl
@[simp] theorem pollTxfull_hostProg : (pollTxfull s).hostProg = s.hostProg := rfl
@[simp] theorem pollTxfull_hostVars : (pollTxfull s).hostVars = s.hostVars := rfl
@[simp] theorem pollTxfull_peer : (pollTxfull s).peer = s.peer := rfl
@[simp] theorem pollTxfull_placed : (pollTxfull s).placed = s.placed := rfl

/-! ### pollRxempty -/

@[simp] theorem pollRxempty_regs : (pollRxempty s).regs = s.regs := rfl
@[simp] theorem pollRxempty_eng : (pollRxempty s).eng = s.eng := rfl
@[simp] theorem pollRxempty_xcvr : (pollRxempty s).xcvr = s.xcvr := rfl
@[simp] theorem pollRxempty_xifResp : (pollRxempty s).xifResp = respWord (rxempty s) 0#16 := rfl
@[simp] theorem pollRxempty_cfgMode16 : (pollRxempty s).cfgMode16 = s.cfgMode16 := rfl
@[simp] theorem pollRxempty_mem : (pollRxempty s).mem = s.mem := rfl
@[simp] theorem pollRxempty_faults : (pollRxempty s).faults = s.faults := rfl
@[simp] theorem pollRxempty_refused : (pollRxempty s).refused = s.refused := rfl
@[simp] theorem pollRxempty_params : (pollRxempty s).params = s.params := rfl
@[simp] theorem pollRxempty_stuck : (pollRxempty s).stuck = s.stuck := rfl
@[simp] theorem pollRxempty_stepNo : (pollRxempty s).stepNo = s.stepNo := rfl
@[simp] theorem pollRxempty_turns : (pollRxempty s).turns = s.turns := rfl
@[simp] theorem pollRxempty_hostProg : (pollRxempty s).hostProg = s.hostProg := rfl
@[simp] theorem pollRxempty_hostVars : (pollRxempty s).hostVars = s.hostVars := rfl
@[simp] theorem pollRxempty_peer : (pollRxempty s).peer = s.peer := rfl
@[simp] theorem pollRxempty_placed : (pollRxempty s).placed = s.placed := rfl

/-! ### tick: nothing but stepNo -/

@[simp] theorem tick_regs : (s.tick).regs = s.regs := by
  unfold State.tick; split <;> rfl
@[simp] theorem tick_eng : (s.tick).eng = s.eng := by
  unfold State.tick; split <;> rfl
@[simp] theorem tick_xcvr : (s.tick).xcvr = s.xcvr := by
  unfold State.tick; split <;> rfl
@[simp] theorem tick_xifResp : (s.tick).xifResp = s.xifResp := by
  unfold State.tick; split <;> rfl
@[simp] theorem tick_cfgMode16 : (s.tick).cfgMode16 = s.cfgMode16 := by
  unfold State.tick; split <;> rfl
@[simp] theorem tick_mem : (s.tick).mem = s.mem := by
  unfold State.tick; split <;> rfl
@[simp] theorem tick_faults : (s.tick).faults = s.faults := by
  unfold State.tick; split <;> rfl
@[simp] theorem tick_refused : (s.tick).refused = s.refused := by
  unfold State.tick; split <;> rfl
@[simp] theorem tick_params : (s.tick).params = s.params := by
  unfold State.tick; split <;> rfl
@[simp] theorem tick_stuck : (s.tick).stuck = s.stuck := by
  unfold State.tick; split <;> rfl
@[simp] theorem tick_turns : (s.tick).turns = s.turns := by
  unfold State.tick; split <;> rfl
@[simp] theorem tick_hostProg : (s.tick).hostProg = s.hostProg := by
  unfold State.tick; split <;> rfl
@[simp] theorem tick_hostVars : (s.tick).hostVars = s.hostVars := by
  unfold State.tick; split <;> rfl
@[simp] theorem tick_peer : (s.tick).peer = s.peer := by
  unfold State.tick; split <;> rfl
@[simp] theorem tick_placed : (s.tick).placed = s.placed := by
  unfold State.tick; split <;> rfl

/-! ### popProg: nothing but hostProg -/

@[simp] theorem popProg_regs (ops : List HostOp) : (State.popProg ops s).regs = s.regs := by
  unfold State.popProg; split <;> rfl
@[simp] theorem popProg_eng (ops : List HostOp) : (State.popProg ops s).eng = s.eng := by
  unfold State.popProg; split <;> rfl
@[simp] theorem popProg_xcvr (ops : List HostOp) : (State.popProg ops s).xcvr = s.xcvr := by
  unfold State.popProg; split <;> rfl
@[simp] theorem popProg_xifResp (ops : List HostOp) : (State.popProg ops s).xifResp = s.xifResp := by
  unfold State.popProg; split <;> rfl
@[simp] theorem popProg_cfgMode16 (ops : List HostOp) : (State.popProg ops s).cfgMode16 = s.cfgMode16 := by
  unfold State.popProg; split <;> rfl
@[simp] theorem popProg_mem (ops : List HostOp) : (State.popProg ops s).mem = s.mem := by
  unfold State.popProg; split <;> rfl
@[simp] theorem popProg_faults (ops : List HostOp) : (State.popProg ops s).faults = s.faults := by
  unfold State.popProg; split <;> rfl
@[simp] theorem popProg_refused (ops : List HostOp) : (State.popProg ops s).refused = s.refused := by
  unfold State.popProg; split <;> rfl
@[simp] theorem popProg_params (ops : List HostOp) : (State.popProg ops s).params = s.params := by
  unfold State.popProg; split <;> rfl
@[simp] theorem popProg_stuck (ops : List HostOp) : (State.popProg ops s).stuck = s.stuck := by
  unfold State.popProg; split <;> rfl
@[simp] theorem popProg_stepNo (ops : List HostOp) : (State.popProg ops s).stepNo = s.stepNo := by
  unfold State.popProg; split <;> rfl
@[simp] theorem popProg_turns (ops : List HostOp) : (State.popProg ops s).turns = s.turns := by
  unfold State.popProg; split <;> rfl
@[simp] theorem popProg_hostVars (ops : List HostOp) : (State.popProg ops s).hostVars = s.hostVars := by
  unfold State.popProg; split <;> rfl
@[simp] theorem popProg_peer (ops : List HostOp) : (State.popProg ops s).peer = s.peer := by
  unfold State.popProg; split <;> rfl
@[simp] theorem popProg_placed (ops : List HostOp) : (State.popProg ops s).placed = s.placed := by
  unfold State.popProg; split <;> rfl

/-! ### popPlaced: nothing but placed -/

@[simp] theorem popPlaced_regs : (s.popPlaced).regs = s.regs := by
  unfold State.popPlaced; split <;> rfl
@[simp] theorem popPlaced_eng : (s.popPlaced).eng = s.eng := by
  unfold State.popPlaced; split <;> rfl
@[simp] theorem popPlaced_xcvr : (s.popPlaced).xcvr = s.xcvr := by
  unfold State.popPlaced; split <;> rfl
@[simp] theorem popPlaced_xifResp : (s.popPlaced).xifResp = s.xifResp := by
  unfold State.popPlaced; split <;> rfl
@[simp] theorem popPlaced_cfgMode16 : (s.popPlaced).cfgMode16 = s.cfgMode16 := by
  unfold State.popPlaced; split <;> rfl
@[simp] theorem popPlaced_mem : (s.popPlaced).mem = s.mem := by
  unfold State.popPlaced; split <;> rfl
@[simp] theorem popPlaced_faults : (s.popPlaced).faults = s.faults := by
  unfold State.popPlaced; split <;> rfl
@[simp] theorem popPlaced_refused : (s.popPlaced).refused = s.refused := by
  unfold State.popPlaced; split <;> rfl
@[simp] theorem popPlaced_params : (s.popPlaced).params = s.params := by
  unfold State.popPlaced; split <;> rfl
@[simp] theorem popPlaced_stuck : (s.popPlaced).stuck = s.stuck := by
  unfold State.popPlaced; split <;> rfl
@[simp] theorem popPlaced_stepNo : (s.popPlaced).stepNo = s.stepNo := by
  unfold State.popPlaced; split <;> rfl
@[simp] theorem popPlaced_turns : (s.popPlaced).turns = s.turns := by
  unfold State.popPlaced; split <;> rfl
@[simp] theorem popPlaced_hostProg : (s.popPlaced).hostProg = s.hostProg := by
  unfold State.popPlaced; split <;> rfl
@[simp] theorem popPlaced_hostVars : (s.popPlaced).hostVars = s.hostVars := by
  unfold State.popPlaced; split <;> rfl
@[simp] theorem popPlaced_peer : (s.popPlaced).peer = s.peer := by
  unfold State.popPlaced; split <;> rfl

/-! ### Flags read the fields they name -/

theorem halted_eq_false : s.halted = false ↔ s.faults = [] ∧ s.refused = none := by
  simp [State.halted]

theorem tick_of_not_halted (h : s.halted = false) : s.tick = { s with stepNo := s.stepNo + 1 } := by
  simp [State.tick, h]

theorem tick_of_halted (h : s.halted = true) : s.tick = s := by simp [State.tick, h]

theorem popProg_of_not_halted (ops : List HostOp) (h : s.halted = false) : State.popProg ops s = s.setProg ops := by
  simp [State.popProg, h]

theorem popPlaced_of_not_halted (h : s.halted = false) : s.popPlaced = { s with placed := none } := by
  simp [State.popPlaced, h]

theorem popPlaced_of_halted (h : s.halted = true) : s.popPlaced = s := by simp [State.popPlaced, h]

theorem popPlaced_of_none (h : s.placed = none) : s.popPlaced = s := by
  unfold State.popPlaced; split
  · rfl
  · cases s; cases h; rfl

theorem setTurns_self {ts : List Turn} (h : s.turns = ts) : s.setTurns ts = s := by cases s; cases h; rfl

theorem setProg_self {ops : List HostOp} (h : s.hostProg = ops) : s.setProg ops = s := by cases s; cases h; rfl

theorem popProg_of_halted (ops : List HostOp) (h : s.halted = true) : State.popProg ops s = s := by
  simp [State.popProg, h]

theorem busy_congr {s t : State} (h : t.eng.phase = s.eng.phase) : busy t = busy s := by simp [busy, h]

theorem currentMode_congr {s t : State} (h : t.cfgMode16 = s.cfgMode16) : currentMode t = currentMode s := by
  simp [currentMode, h]

theorem currentMode_of_cfg {s : State} {b : Bool} (h : s.cfgMode16 = b) :
    currentMode s = if b then .width16 else .width8 := by simp [currentMode, h]

/-- `txfull` reads the transmit queue, the depths and the mode (R25). -/
theorem txfull_congr {s t : State} (hx : t.xcvr.txq = s.xcvr.txq) (hp : t.params = s.params)
    (hc : t.cfgMode16 = s.cfgMode16) : txfull t = txfull s := by
  unfold txfull; rw [currentMode_congr hc, hx, hp]

/-- `rxfull` reads the receive queue, the depths and the mode (R86). -/
theorem rxfull_congr {s t : State} (hx : t.xcvr.rxq = s.xcvr.rxq) (hp : t.params = s.params)
    (hc : t.cfgMode16 = s.cfgMode16) : rxfull t = rxfull s := by
  unfold rxfull; rw [currentMode_congr hc, hx, hp]

/-- A fault raised or a refusal halts. -/
theorem raiseFault_halted (c : Fault) : (raiseFault c s).halted = true := by
  have h : addFault { code := c, phase := s.eng.phase, step := s.stepNo } s.faults ≠ [] := by
    unfold addFault
    split
    · intro h; simp_all
    · simp
  simp [State.halted, h]

theorem refuse_halted (r : Refusal) : (refuse r s).halted = true := by simp [State.halted]

end Sys2Proof.Machine
end

