-- ==== Sys2Proof/Laws/Xif.lean ====
section
/-! SUPPORT. What each transaction can do (R81 to R84), once. -/

namespace Sys2Proof.Machine

/-- WRITE_UNIT either faults or queues exactly one unit. -/
theorem writeUnit_eq (w : Bool) (d : Unit16) (s : State) : writeUnit w d s =
    if txfull s then .error .txWriteWhenFull
    else .ok { s with xcvr := { s.xcvr with txq := s.xcvr.txq ++ [trunc (currentMode s) d] },
                      xifResp := respWord false 0#16 } := rfl

theorem writeUnit_cases {w : Bool} {d : Unit16} {s t : State} (h : writeUnit w d s = .ok t) :
    txfull s = false ∧
    t = { s with xcvr := { s.xcvr with txq := s.xcvr.txq ++ [trunc (currentMode s) d] },
                 xifResp := respWord false 0#16 } := by
  rw [writeUnit_eq] at h
  split at h
  · simp at h
  · next hf => exact ⟨by simpa using hf, (Except.ok.inj h).symm⟩

/-- READ_UNIT either faults or takes exactly the oldest unit. -/
theorem readUnit_cons (w : Bool) {s : State} {r : Unit16} {rest : List Unit16} (h : s.xcvr.rxq = r :: rest) :
    readUnit w s = .ok { s with xcvr := { s.xcvr with rxq := rest }, xifResp := respWord false r } := by
  unfold readUnit; rw [h]; rfl

theorem readUnit_nil (w : Bool) {s : State} (h : s.xcvr.rxq = []) : readUnit w s = .error .rxReadWhenEmpty := by
  unfold readUnit; rw [h]

theorem readUnit_cases {w : Bool} {s t : State} (h : readUnit w s = .ok t) :
    ∃ r rest, s.xcvr.rxq = r :: rest ∧
      t = { s with xcvr := { s.xcvr with rxq := rest }, xifResp := respWord false r } := by
  cases hq : s.xcvr.rxq with
  | nil => rw [readUnit_nil w hq] at h; simp at h
  | cons r rest => rw [readUnit_cons w hq] at h; exact ⟨r, rest, rfl, (Except.ok.inj h).symm⟩

/-- Receive-empty says whether the receive queue holds a unit. -/
theorem rxempty_eq_true {s : State} : rxempty s = true ↔ s.xcvr.rxq = [] := by simp [rxempty]

theorem rxempty_eq_false {s : State} : rxempty s = false ↔ s.xcvr.rxq ≠ [] := by simp [rxempty]

/-- A poll does not change what the flags say. -/
@[simp] theorem txfull_setResp (s : State) (r : XifResponse) : txfull (s.setResp r) = txfull s := rfl

end Sys2Proof.Machine
end

