-- ==== Sys2Proof/Laws/Engine.lean ====
section
/-! SUPPORT. What one step of the engine can do: one inversion lemma a phase, and the frame of them all. -/

namespace Sys2Proof.Machine

/-- One pop (R67, R68, R70): the oldest unit leaves the receive queue, and either the sink takes it and the count goes
down, or the write is refused and the engine is stuck with nothing else changed (R32). -/
theorem popOne_cases {after : Phase} {s t : State} (h : popOne after s = .ok t) :
    ∃ r rest, s.xcvr.rxq = r :: rest ∧
      ((s.eng.rxp = true ∧ memAdmit s.params s.eng.rxptr s.eng.size .write = false ∧
          t = { s with xcvr := { s.xcvr with rxq := rest }, xifResp := respWord false r, stuck := true }) ∨
       (s.eng.rxp = true ∧ memAdmit s.params s.eng.rxptr s.eng.size .write = true ∧
          t = { s with xcvr := { s.xcvr with rxq := rest }, xifResp := respWord false r,
                       mem := memWrite s.mem s.eng.rxptr (trunc s.eng.m r) s.eng.size,
                       eng := { s.eng with rxptr := nextUnit s.eng.rxptr s.eng.size,
                                           inflight := s.eng.inflight - 1#8, phase := after } }) ∨
       (s.eng.rxp = false ∧
          t = { s with xcvr := { s.xcvr with rxq := rest }, xifResp := respWord false r,
                       eng := { s.eng with inflight := s.eng.inflight - 1#8, phase := after } })) := by
  unfold popOne at h
  cases hq : s.xcvr.rxq with
  | nil => rw [readUnit_nil _ (show (pollRxempty s).xcvr.rxq = [] from hq)] at h; simp at h
  | cons r rest =>
    refine ⟨r, rest, rfl, ?_⟩
    rw [readUnit_cons _ (show (pollRxempty s).xcvr.rxq = r :: rest from hq)] at h
    simp only [respData_respWord] at h
    split at h
    · next hs =>
      left
      unfold rxSink at hs
      split at hs
      · next hp =>
        split at hs
        · simp at hs
        · next ha => exact ⟨hp, by simpa using ha, (Except.ok.inj h).symm⟩
      · simp at hs
    · next v hs =>
      right
      rcases rxSink_cases hs with ⟨hp, rfl⟩ | ⟨hp, ha, rfl⟩
      · exact .inr ⟨hp, (Except.ok.inj h).symm⟩
      · exact .inl ⟨hp, ha, (Except.ok.inj h).symm⟩

/-- A_PUSH (R65): the loop ends, the cap holds the push back, the read is refused, or one unit is pushed. -/
theorem stepAPush_cases {s t : State} (h : stepAPush s = .ok t) :
    (s.eng.sent = s.eng.count ∧ t = { s with eng := { s.eng with phase := .bDrain } }) ∨
    (s.eng.sent ≠ s.eng.count ∧
      ((s.params.fifoLimit ≤ s.eng.inflight.toNat ∧ t = { s with eng := { s.eng with phase := .aPop } }) ∨
       (s.eng.inflight.toNat < s.params.fifoLimit ∧
        ((txUnit s = none ∧ t = { s with stuck := true }) ∨
         (txfull s = false ∧ ∃ u, txUnit s = some u ∧
          t = { s with xcvr := { s.xcvr with txq := s.xcvr.txq ++ [trunc (currentMode s) u] },
                       xifResp := respWord false 0#16,
                       eng := { s.eng with txptr := txptrAfterPush s.eng, sent := s.eng.sent + 1#32,
                                           inflight := s.eng.inflight + 1#8, phase := .aPop } }))))) := by
  unfold stepAPush at h
  split at h
  · next hc => exact .inl ⟨hc, (Except.ok.inj h).symm⟩
  · next hc =>
    refine .inr ⟨hc, ?_⟩
    split at h
    · next hl =>
      refine .inr ⟨hl, ?_⟩
      split at h
      · next hu => exact .inl ⟨hu, (Except.ok.inj h).symm⟩
      · next u hu =>
        split at h
        · simp at h
        · next v hw =>
          obtain ⟨hf, rfl⟩ := writeUnit_cases hw
          exact .inr ⟨hf, u, hu, (Except.ok.inj h).symm⟩
    · next hl => exact .inl ⟨by omega, (Except.ok.inj h).symm⟩

/-- A_POP (R67): nothing received, or one pop with a count above 0. -/
theorem stepAPop_cases {s t : State} (h : stepAPop s = .ok t) :
    (s.xcvr.rxq = [] ∧
      t = { s with xifResp := respWord true 0#16, eng := { s.eng with phase := .aPush } }) ∨
    (s.eng.inflight ≠ 0#8 ∧ popOne .aPush s = .ok t) := by
  unfold stepAPop at h
  split at h
  · next hf =>
    have hq : rxempty s = true := by simpa [pollRxempty] using hf
    refine .inl ⟨rxempty_eq_true.1 hq, ?_⟩
    rw [← Except.ok.inj h]; simp only [pollRxempty, hq]; rfl
  · next hf =>
    split at h
    · simp at h
    · next hi => exact .inr ⟨hi, h⟩

/-- B_DRAIN (R70): completion, a poll, or one pop. -/
theorem stepBDrain_cases {s t : State} (h : stepBDrain s = .ok t) :
    (s.eng.inflight = 0#8 ∧ t = s.complete) ∨
    (s.eng.inflight ≠ 0#8 ∧ s.xcvr.rxq = [] ∧ t = { s with xifResp := respWord true 0#16 }) ∨
    (s.eng.inflight ≠ 0#8 ∧ popOne .bDrain s = .ok t) := by
  unfold stepBDrain at h
  split at h
  · next hi => exact .inl ⟨hi, (Except.ok.inj h).symm⟩
  · next hi =>
    right
    split at h
    · next hf =>
      have hq : rxempty s = true := by simpa [pollRxempty] using hf
      refine .inl ⟨hi, rxempty_eq_true.1 hq, ?_⟩
      rw [← Except.ok.inj h]; simp only [pollRxempty, hq]; rfl
    · exact .inr ⟨hi, h⟩

/-- WAITTX (R64): a poll, and the next phase when the transmit side is not full. -/
theorem stepWaitTx_cases (s : State) :
    (txfull s = true ∧ stepWaitTx s = { s with xifResp := respWord true 0#16 }) ∨
    (txfull s = false ∧
      stepWaitTx s = { s with xifResp := respWord false 0#16, eng := { s.eng with phase := .aPush } }) := by
  cases hf : txfull s
  · right; simp [stepWaitTx, pollTxfull, hf, State.setPhase, State.setResp]
  · left; simp [stepWaitTx, pollTxfull, hf, State.setResp]

/-- S_WAITTX (R60): a poll, and the push when the transmit side is not full. It never faults. -/
theorem stepSWaitTx_cases (s : State) :
    (txfull s = true ∧ stepSWaitTx s = .ok { s with xifResp := respWord true 0#16 }) ∨
    (txfull s = false ∧
      stepSWaitTx s = .ok { s with
        xcvr := { s.xcvr with txq := s.xcvr.txq ++ [trunc (currentMode s) (trunc s.eng.m s.eng.txunit)] },
        xifResp := respWord false 0#16, eng := { s.eng with phase := .sWaitRx } }) := by
  cases hf : txfull s
  · right
    refine ⟨rfl, ?_⟩
    have h2 : txfull (s.setResp (respWord false 0#16)) = false := hf
    simp only [stepSWaitTx, pollTxfull, hf, setResp_xifResp, respFlag_respWord, writeUnit_eq, h2]
    rfl
  · left
    refine ⟨rfl, ?_⟩
    simp only [stepSWaitTx, pollTxfull, hf, setResp_xifResp, respFlag_respWord]
    rfl

/-- S_WAITRX (R61): a poll, or the pop, RXDATA and completion. It never faults. -/
theorem stepSWaitRx_cases (s : State) :
    (s.xcvr.rxq = [] ∧ stepSWaitRx s = .ok { s with xifResp := respWord true 0#16 }) ∨
    (∃ r rest, s.xcvr.rxq = r :: rest ∧
      stepSWaitRx s = .ok { s with
        xcvr := { s.xcvr with rxq := rest }, xifResp := respWord false r,
        regs := { s.regs with rxdata := trunc s.eng.m r, done := true },
        eng := { s.eng with phase := .idle } }) := by
  cases hq : s.xcvr.rxq with
  | nil =>
    left
    have hf : rxempty s = true := rxempty_eq_true.2 hq
    refine ⟨rfl, ?_⟩
    simp only [stepSWaitRx, pollRxempty, hf, setResp_xifResp, respFlag_respWord]
    rfl
  | cons r rest =>
    right
    have hf : rxempty s = false := rxempty_eq_false.2 (by simp [hq])
    refine ⟨r, rest, rfl, ?_⟩
    have h2 : (s.setResp (respWord false 0#16)).xcvr.rxq = r :: rest := hq
    simp only [stepSWaitRx, pollRxempty, hf, setResp_xifResp, respFlag_respWord, readUnit_cons _ h2]
    simp [finishXchg, State.complete, State.setResp]

end Sys2Proof.Machine
end

