-- ==== Sys2Proof/Laws/Memory.lean ====
section
/-! SUPPORT. Buffer memory: a read after a write, a write leaves every other byte alone, every operation keeps the
canonical form, and a unit is read back little-endian (R33). -/

namespace Sys2Proof.Machine

/-- A read of a byte just stored gives it. -/
@[simp] theorem memLookup_memSet_same (m : List Host.Cell) (a : Nat) (v : Byte) :
    memLookup (memSet m a v) a = some v := by
  induction m with
  | nil => simp [memSet, memLookup]
  | cons c rest ih =>
    obtain ⟨b, w⟩ := c
    simp only [memSet]
    split
    · simp [memLookup]
    · split
      · simp [memLookup]
      · have hb : b ≠ a := by omega
        simp [memLookup, hb, ih]

/-- A store leaves every other byte alone. -/
theorem memLookup_memSet_other (m : List Host.Cell) {a b : Nat} (v : Byte) (h : b ≠ a) :
    memLookup (memSet m a v) b = memLookup m b := by
  induction m with
  | nil => simp [memSet, memLookup, h.symm]
  | cons c rest ih =>
    obtain ⟨k, w⟩ := c
    simp only [memSet]
    split
    · simp [memLookup, h.symm]
    · split
      · next hk => subst hk; simp [memLookup, h.symm]
      · simp only [memLookup, ih]

theorem memByte_memSet_same (m : List Host.Cell) (a : Word) (v : Byte) :
    memByte (memSet m a.toNat v) a = v := by simp [memByte]

theorem memByte_memSet_other (m : List Host.Cell) {a b : Word} (v : Byte) (h : b ≠ a) :
    memByte (memSet m a.toNat v) b = memByte m b := by
  have h' : b.toNat ≠ a.toNat := fun e => h (BitVec.eq_of_toNat_eq e)
  simp [memByte, memLookup_memSet_other m v h']

/-- A store above a bound, inside the space, keeps the canonical form above that bound. -/
theorem memWfFrom_memSet {m : List Host.Cell} {lo a : Nat} (v : Byte) (h : memWfFrom lo m = true) (hl : lo ≤ a)
    (ha : a < 2 ^ 32) : memWfFrom lo (memSet m a v) = true := by
  induction m generalizing lo with
  | nil => simp [memSet, memWfFrom]; omega
  | cons c rest ih =>
    obtain ⟨b, w⟩ := c
    simp only [memWfFrom, Bool.and_eq_true, decide_eq_true_eq] at h
    obtain ⟨⟨h1, h2⟩, h3⟩ := h
    simp only [memSet]
    split
    · simp only [memWfFrom, h3, Bool.and_true, Bool.and_eq_true, decide_eq_true_eq]; omega
    · split
      · next hab => subst hab; simp only [memWfFrom, h3, Bool.and_true, Bool.and_eq_true, decide_eq_true_eq]; omega
      · simp only [memWfFrom, ih h3 (by omega), Bool.and_true, Bool.and_eq_true, decide_eq_true_eq]; omega

/-- A store at a word address keeps the canonical form. -/
theorem memWf_memSet {m : List Host.Cell} (a : Word) (v : Byte) (h : memWf m = true) :
    memWf (memSet m a.toNat v) = true :=
  memWfFrom_memSet v h (Nat.zero_le _) a.isLt

/-- The engine's write keeps the canonical form. -/
theorem memWf_memWrite {m : List Host.Cell} (a : Word) (u : Unit16) (n : UnitSize) (h : memWf m = true) :
    memWf (memWrite m a u n) = true := by
  cases n
  · exact memWf_memSet a _ h
  · exact memWf_memSet (a + 1#32) _ (memWf_memSet a _ h)

/-- The host's store keeps the canonical form. -/
theorem memWf_memStoreBytes {m : List Host.Cell} (a : Word) (vs : List Byte) (h : memWf m = true) :
    memWf (memStoreBytes m a vs) = true := by
  induction vs generalizing m a with
  | nil => exact h
  | cons v rest ih => exact ih _ (memWf_memSet a v h)

/-- Reset memory has the canonical form. -/
theorem memWf_reset : memWf State.reset.mem = true := by decide

/-- Two canonical lists with the same bytes above a bound are the same list. -/
theorem memLookup_none_of_below {m : List Host.Cell} {lo a : Nat} (h : memWfFrom lo m = true) (ha : a < lo) :
    memLookup m a = none := by
  induction m generalizing lo with
  | nil => rfl
  | cons c rest ih =>
    obtain ⟨b, w⟩ := c
    simp only [memWfFrom, Bool.and_eq_true, decide_eq_true_eq] at h
    have hb : b ≠ a := by omega
    simp [memLookup, hb, ih h.2 (by omega)]

/-- Equal memories are equal data: canonical lists that answer every lookup alike are equal. -/
theorem mem_ext {m n : List Host.Cell} {lo : Nat} (hm : memWfFrom lo m = true) (hn : memWfFrom lo n = true)
    (h : ∀ a, memLookup m a = memLookup n a) : m = n := by
  induction m generalizing n lo with
  | nil =>
    cases n with
    | nil => rfl
    | cons c rest => have := h c.1; simp [memLookup] at this
  | cons c rest ih =>
    obtain ⟨b, w⟩ := c
    simp only [memWfFrom, Bool.and_eq_true, decide_eq_true_eq] at hm
    cases n with
    | nil => have := h b; simp [memLookup] at this
    | cons d rest' =>
      obtain ⟨k, w'⟩ := d
      simp only [memWfFrom, Bool.and_eq_true, decide_eq_true_eq] at hn
      have below : ∀ {l : List Host.Cell} {x y : Nat}, memWfFrom (x + 1) l = true → y ≤ x → memLookup l y = none :=
        fun hl hy => memLookup_none_of_below hl (by omega)
      have hk : k = b := by
        rcases Nat.lt_trichotomy k b with hlt | heq | hgt
        · have := h k
          have hbk : b ≠ k := by omega
          simp [memLookup, hbk, below hm.2 (Nat.le_of_lt hlt)] at this
        · exact heq
        · have := h b
          have hkb : k ≠ b := by omega
          simp [memLookup, hkb, below hn.2 (Nat.le_of_lt hgt)] at this
      subst hk
      have hw : w = w' := by have := h k; simpa [memLookup] using this
      subst hw
      have hrest : rest = rest' := by
        refine ih hm.2 hn.2 fun a => ?_
        by_cases hak : k = a
        · subst hak; rw [below hm.2 (Nat.le_refl _), below hn.2 (Nat.le_refl _)]
        · have := h a; simpa [memLookup, hak] using this
      rw [hrest]

end Sys2Proof.Machine
end

