-- ==== Sys2Proof/Laws/HostPort.lean ====
section
/-! SUPPORT. What the two commands can do when they are accepted, and what one turn of the host can do to the machine. -/

namespace Sys2Proof.Machine

theorem busy_eq_false {s : State} : busy s = false ↔ s.eng.phase = .idle := by simp [busy]

theorem busy_eq_true {s : State} : busy s = true ↔ s.eng.phase ≠ .idle := by simp [busy]

/-- XBUF when idle: completion at acceptance, a misaligned buffer, or the start (R63). -/
theorem execXbuf_idle (txp rxp : Bool) {s : State} (h : busy s = false) : execXbuf txp rxp s = .next
    (if unitsOf s.regs.len (currentMode s) = 0#32 then
      { s with regs := { s.regs with done := true }, eng := { xbufEngine txp rxp s with phase := .idle } }
     else if misaligned txp rxp (currentMode s) s then raiseFault .misalignedBuffer s
     else { s with regs := { s.regs with done := false }, eng := { xbufEngine txp rxp s with phase := .waitTx } }) := by
  unfold execXbuf startXbuf
  simp only [h, Bool.false_eq_true, if_false]
  split
  · rfl
  · split <;> rfl

/-- What a turn of the host can do to the machine, its program and variables apart: it stops the machine with a fault or
a refusal, writes operand registers or buffer memory, starts a command, or, its next operation being that, changes the mode of an idle block. -/
inductive HostEffect (s : State) : State → Prop
  | fault (ops : List HostOp) (c : Fault)
      (hc : (c = .cmdWhileBusy ∧ busy s = true) ∨ (c = .modeChangedWhileBusy ∧ busy s = true) ∨
        (c = .misalignedBuffer ∧ busy s = false)) : HostEffect s (raiseFault c { s with hostProg := ops })
  | refusal (ops : List HostOp) (r : Refusal) : HostEffect s (refuse r { s with hostProg := ops })
  | plain (ops : List HostOp) (vars : List HostVar) (regs : HostRegs) (m : List Host.Cell)
      (hr : regs.rxdata = s.regs.rxdata ∧ regs.done = s.regs.done) (hm : memWf s.mem = true → memWf m = true) :
      HostEffect s { s with hostProg := ops, hostVars := vars, regs := regs, mem := m }
  | xchg (ops : List HostOp) (h : busy s = false) : HostEffect s { startXchg s with hostProg := ops }
  | xbufEmpty (ops : List HostOp) (txp rxp : Bool) (h : busy s = false)
      (hn : unitsOf s.regs.len (currentMode s) = 0#32) :
      HostEffect s { s with hostProg := ops, regs := { s.regs with done := true },
                            eng := { xbufEngine txp rxp s with phase := .idle } }
  | xbuf (ops : List HostOp) (txp rxp : Bool) (h : busy s = false)
      (hn : unitsOf s.regs.len (currentMode s) ≠ 0#32) (ha : misaligned txp rxp (currentMode s) s = false) :
      HostEffect s { s with hostProg := ops, regs := { s.regs with done := false },
                            eng := { xbufEngine txp rxp s with phase := .waitTx } }
  | mode (ops : List HostOp) (b : Bool) (hp : s.hostProg = .configure b :: ops) (hb : b ≠ s.cfgMode16)
      (h : busy s = false) :
      HostEffect s { refit { s with cfgMode16 := b } with hostProg := ops }

/-- A command word runs a command or is reserved: no other operation comes of it (R46). -/
theorem decodeCmd_cases {v : Word} {i : Instr} (h : decodeCmd v = .ok i) : i = .xchg ∨ ∃ txp rxp, i = .xbuf txp rxp := by
  unfold decodeCmd at h
  split at h
  · exact .inl (Except.ok.inj h).symm
  · split at h
    · exact .inr ⟨_, _, (Except.ok.inj h).symm⟩
    · simp at h

/-- The host's operation is done in a state in which nothing has stopped. -/
theorem HostEffect.pop {s t : State} {ops : List HostOp} (h : t.halted = false)
    (he : HostEffect s { t with hostProg := ops }) : HostEffect s (State.popProg ops t) := by
  rw [popProg_of_not_halted t ops h]; exact he

/-- A state that has stopped keeps the host's operation. -/
theorem HostEffect.keep {s t : State} {ops : List HostOp} (h : t.halted = true) (he : HostEffect s t) :
    HostEffect s (State.popProg ops t) := by
  rw [popProg_of_halted t ops h]; exact he

/-- The CMD write: a fault, a refusal or a command (R31, R49). -/
theorem writeCmd_effect (v : Word) (ops : List HostOp) (s : State) (hs : s.halted = false) :
    ∃ t, onNext (writeCmd v s) (State.popProg ops) = .next t ∧ HostEffect s t := by
  unfold writeCmd
  cases hb : busy s
  · simp only [Bool.false_eq_true, if_false]
    cases hd : decodeCmd v with
    | error e => exact ⟨_, rfl, .keep (refuse_halted _ _) (.refusal s.hostProg _)⟩
    | ok i =>
      rcases decodeCmd_cases hd with rfl | ⟨txp, rxp, rfl⟩
      · refine ⟨_, rfl, ?_⟩
        simp only [hb, Bool.false_eq_true, if_false]
        exact .pop hs (.xchg ops hb)
      · simp only [exec, execXbuf_idle txp rxp hb]
        refine ⟨_, rfl, ?_⟩
        split
        · next hn => exact .pop hs (.xbufEmpty ops txp rxp hb hn)
        · next hn =>
          split
          · exact .keep (raiseFault_halted _ _) (.fault s.hostProg _ (.inr (.inr ⟨rfl, hb⟩)))
          · next ha => exact .pop hs (.xbuf ops txp rxp hb hn (by simpa using ha))
  · exact ⟨_, rfl, .keep (raiseFault_halted _ _) (.fault s.hostProg _ (.inl ⟨rfl, hb⟩))⟩

/-- A register write that is admitted (R31). -/
theorem hostWrite_effect (r : HostReg) (v : Word) (ops : List HostOp) (s : State) (hs : s.halted = false) :
    ∃ t, onNext (hostWrite r v s) (State.popProg ops) = .next t ∧ HostEffect s t := by
  have plain : ∀ r', ∃ t, onNext (.next (writeReg r' v s)) (State.popProg ops) = .next t ∧ HostEffect s t := by
    intro r'
    refine ⟨_, rfl, ?_⟩
    cases r' <;> exact .pop hs (.plain ops s.hostVars _ s.mem ⟨rfl, rfl⟩ id)
  cases r
  case cmd => exact writeCmd_effect v ops s hs
  all_goals exact plain _

/-- One primitive operation of the host, the next of its program. -/
theorem hostPrim_effect (op : HostOp) (rest : List HostOp) (s : State) (hs : s.halted = false)
    (hp : s.hostProg = op :: rest) :
    ∃ t, hostPrim op rest s = .next t ∧ HostEffect s t := by
  have stay : HostEffect s s := .plain s.hostProg s.hostVars s.regs s.mem ⟨rfl, rfl⟩ id
  have bad : HostEffect s (State.popProg rest (refuse .badHostAccess s)) :=
    .keep (refuse_halted _ _) (.refusal s.hostProg _)
  have assigned : ∀ x v, HostEffect s (State.popProg rest (s.assign x v)) :=
    fun _ _ => .pop hs (.plain rest _ s.regs s.mem ⟨rfl, rfl⟩ id)
  cases op with
  | store b a v =>
    simp only [hostPrim, hostStore]
    split
    · exact ⟨_, rfl, bad⟩
    · next r _ => exact hostWrite_effect r v rest s hs
  | load b a x =>
    refine ⟨_, rfl, ?_⟩
    unfold hostLoad
    split
    · exact bad
    · exact assigned _ _
  | loadLow8 a x =>
    refine ⟨_, rfl, ?_⟩
    unfold hostLoadLow8
    split
    · exact bad
    · exact assigned _ _
  | wait a hi lo v =>
    refine ⟨_, rfl, ?_⟩
    unfold hostWait
    split
    · exact .refusal s.hostProg _
    · split
      · exact .plain rest s.hostVars s.regs s.mem ⟨rfl, rfl⟩ id
      · exact stay
  | memStore a bs =>
    exact ⟨_, rfl, .plain rest s.hostVars s.regs _ ⟨rfl, rfl⟩ (memWf_memStoreBytes a bs)⟩
  | memLoad a n x => exact ⟨_, rfl, .plain rest _ s.regs s.mem ⟨rfl, rfl⟩ id⟩
  | configure b =>
    refine ⟨_, rfl, ?_⟩
    unfold configure
    split
    · exact .pop hs (.plain rest s.hostVars s.regs s.mem ⟨rfl, rfl⟩ id)
    · next hb =>
      split
      · next hy => exact .keep (raiseFault_halted _ _) (.fault s.hostProg _ (.inr (.inl ⟨rfl, hy⟩)))
      · next hy => exact .pop hs (.mode rest b hp hb (by simpa using hy))
  | xchg1 v x => exact ⟨_, rfl, stay⟩
  | xbufw ta n ra txp rxp x => exact ⟨_, rfl, stay⟩
  | exchange8bit b x => exact ⟨_, rfl, stay⟩
  | exchangeBuffer8bit tx n rx x => exact ⟨_, rfl, stay⟩

/-- No pseudo-operation expands to a change of mode (R53, R76, R77). -/
theorem expandOp_configure {p : Params} {op : HostOp} {rest ops : List HostOp} {b : Bool}
    (h : expandOp p op ++ rest = .configure b :: ops) : op = .configure b ∧ rest = ops := by
  cases op with
  | configure b' => simpa [expandOp] using h
  | exchangeBuffer8bit tx n rx x => cases tx <;> cases rx <;> simp [expandOp, addrOps, xbufOps, wr] at h
  | _ => simp [expandOp, xchg1Ops, wr] at h

/-- The host's program plays no part in what a turn does to the machine, a change of mode apart. -/
theorem HostEffect.of_setProg {s t : State} {l : List HostOp} (h : HostEffect (s.setProg l) t)
    (hl : ∀ b ops, l = .configure b :: ops → s.hostProg = .configure b :: ops) : HostEffect s t := by
  cases h with
  | fault ops c hc => exact .fault ops c hc
  | refusal ops r => exact .refusal ops r
  | plain ops vars regs m hr hm => exact .plain ops vars regs m hr hm
  | xchg ops hb => exact .xchg ops hb
  | xbufEmpty ops txp rxp hb hn => exact .xbufEmpty ops txp rxp hb hn
  | xbuf ops txp rxp hb hn ha => exact .xbuf ops txp rxp hb hn ha
  | mode ops b hp hb hy => exact .mode ops b (hl b ops hp) hb hy

/-- A turn of the host always answers a next state, and does one of the things a host can do. -/
theorem hostMove_effect (op : HostOp) (rest : List HostOp) (s : State) (hs : s.halted = false)
    (hp : s.hostProg = op :: rest) : ∃ t, hostMove op rest s = .next t ∧ HostEffect s t := by
  unfold hostMove
  split
  · exact ⟨_, rfl, .refusal s.hostProg _⟩
  · split
    · exact ⟨_, rfl, .plain s.hostProg s.hostVars s.regs s.mem ⟨rfl, rfl⟩ id⟩
    · next first after hx =>
      obtain ⟨t, ht, he⟩ := hostPrim_effect first after (s.setProg (first :: after)) hs rfl
      refine ⟨t, ht, he.of_setProg fun b ops hl => ?_⟩
      obtain ⟨rfl, rfl⟩ := expandOp_configure (hx.trans hl)
      exact hp

end Sys2Proof.Machine
end

