-- ==== Sys2Proof/Laws/PerInstr.lean ====
section
/-! SUPPORT. The opcode map (R51), instruction by instruction: the word of an operation, under its row's mask, is its
row's match. -/

namespace Sys2Proof.Laws.OpcodeRow

/-- The row's match, mask and format width (R51, spec/opcode_table.json). -/
def row : Instr → Nat × Nat × Nat
  | .xchg => (0x00000001, 0xFFFFFFFF, 32)
  | .xbuf _ _ => (0x00000002, 0xFFFFFFF3, 32)
  | .pollTxfull => (0x00001, 0xFFFFF, 20)
  | .pollRxempty => (0x00002, 0xFFFFF, 20)
  | .writeUnit _ _ => (0x00003, 0x00007, 20)
  | .readUnit _ => (0x00004, 0xFFFF7, 20)

/-- The word of an encoded operation and the width of its port. -/
def wordOf : Encoded → Nat × Nat
  | .cmd w => (w.toNat, 32)
  | .xif w => (w.toNat, 20)

/-- The operation's word stands on its row's port and agrees with the row on every fixed bit. -/
def Statement (i : Instr) : Prop :=
  (wordOf (encode i)).2 = (row i).2.2 ∧ (wordOf (encode i)).1 &&& (row i).2.1 = (row i).1

theorem xchg : Statement .xchg := by unfold Statement; decide

theorem xbuf (txp rxp : Bool) : Statement (.xbuf txp rxp) := by
  revert txp rxp; unfold Statement; decide

theorem pollTxfull : Statement .pollTxfull := by unfold Statement; decide

theorem pollRxempty : Statement .pollRxempty := by unfold Statement; decide

theorem writeUnit (w16 : Bool) (wdata : Unit16) : Statement (.writeUnit w16 wdata) := by
  refine ⟨rfl, ?_⟩
  have h : encodeRequest 0b011#3 w16 wdata &&& 0x00007#20 = 0x00003#20 := by
    apply BitVec.eq_of_getLsbD_eq
    intro i hi
    unfold encodeRequest
    rw [BitVec.getLsbD_and, BitVec.getLsbD_append, BitVec.getLsbD_append]
    interval_cases i <;> simp
  simpa [wordOf, encode, row] using congrArg BitVec.toNat h

theorem readUnit (w16 : Bool) : Statement (.readUnit w16) := by
  revert w16; unfold Statement; decide

end Sys2Proof.Laws.OpcodeRow
end

