-- ==== Sys2Proof/Laws/Step.lean ====
section
/-! SUPPORT. What a step can do: the inversion lemma of `step`, and what each agent's turn can do, cited by every proof
about all steps. -/

namespace Sys2Proof.Machine

/-- Where no refused access holds the engine no unit is lost, and the count is the occupancy (R73). -/
theorem lostUnits_eq_zero {s : State} (h : s.stuck = false) : lostUnits s = 0 := by simp [lostUnits, h]

/-- `lostUnits` reads the engine and the mark `stuck`. -/
theorem lostUnits_congr {s t : State} (he : t.eng = s.eng) (hk : t.stuck = s.stuck) : lostUnits t = lostUnits s := by
  simp only [lostUnits, he, hk]

theorem running_not_halted {s : State} (h : s.Running) : s.halted = false :=
  (halted_eq_false s).2 ⟨h.1, h.2.1⟩

/-- A request never decodes to a command (R48). -/
theorem decodeXif_cases {v : XifRequest} {i : Instr} (h : decodeXif v = .ok i) :
    i = .pollTxfull ∨ i = .pollRxempty ∨ (∃ w d, i = .writeUnit w d) ∨ ∃ w, i = .readUnit w := by
  unfold decodeXif at h
  split at h
  · simp at h
  · split at h
    · exact .inl (Except.ok.inj h).symm
    · split at h
      · exact .inr (.inl (Except.ok.inj h).symm)
      · split at h
        · exact .inr (.inr (.inl ⟨_, _, (Except.ok.inj h).symm⟩))
        · split at h
          · exact .inr (.inr (.inr ⟨_, (Except.ok.inj h).symm⟩))
          · simp at h

/-- What a request given to an idle engine from outside can do: one transaction, a fault of it, a refusal, or nothing. -/
inductive RequestEffect (s : State) : State → Prop
  | none : RequestEffect s s
  | refusal : RequestEffect s (refuse .reservedXif s)
  | poll (r : XifResponse) : RequestEffect s { s with xifResp := r }
  | write (d : Unit16) (h : txfull s = false) :
      RequestEffect s { s with xcvr := { s.xcvr with txq := s.xcvr.txq ++ [trunc (currentMode s) d] },
                               xifResp := respWord false 0#16 }
  | writeFault : RequestEffect s (raiseFault .txWriteWhenFull s)
  | read (r : Unit16) (rest : List Unit16) (h : s.xcvr.rxq = r :: rest) :
      RequestEffect s { s with xcvr := { s.xcvr with rxq := rest }, xifResp := respWord false r }
  | readFault (h : s.xcvr.rxq = []) : RequestEffect s (raiseFault .rxReadWhenEmpty s)

theorem serveXif_effect (w : XifRequest) (s : State) : ∃ t, serveXif w s = .next t ∧ RequestEffect s t := by
  unfold serveXif
  cases hd : decodeXif w with
  | error e =>
    cases e
    · exact ⟨_, rfl, .none⟩
    · exact ⟨_, rfl, .none⟩
    · exact ⟨_, rfl, .refusal⟩
  | ok i =>
    rcases decodeXif_cases hd with rfl | rfl | ⟨w16, d, rfl⟩ | ⟨w16, rfl⟩
    · exact ⟨_, rfl, .poll _⟩
    · exact ⟨_, rfl, .poll _⟩
    · refine ⟨_, rfl, ?_⟩
      rw [writeUnit_eq]
      split
      · exact .writeFault
      · next hf => exact .write d (by simpa using hf)
    · refine ⟨_, rfl, ?_⟩
      cases hq : s.xcvr.rxq with
      | nil => rw [readUnit_nil _ hq]; exact .readFault hq
      | cons r rest => rw [readUnit_cons _ hq]; exact .read r rest hq

/-- What SHIFT can do (R86). -/
theorem shiftStep_cases (s : State) :
    (s.xcvr.sr = none ∧ shiftStep s = .ok s) ∨
    (∃ u, s.xcvr.sr = some u ∧ rxfull s = true ∧ shiftStep s = .error .rxOverrun) ∨
    (∃ u, s.xcvr.sr = some u ∧ rxfull s = false ∧ shiftStep s = .ok { s with
      xcvr := { s.xcvr with sr := none,
                            rxq := s.xcvr.rxq ++ [trunc (currentMode s) (peerAnswer s.stepNo u s.peer).1] },
      peer := (peerAnswer s.stepNo u s.peer).2 }) := by
  unfold shiftStep
  cases hs : s.xcvr.sr with
  | none => exact .inl ⟨rfl, rfl⟩
  | some u =>
    cases hf : rxfull s
    · exact .inr (.inr ⟨u, rfl, rfl, by simp⟩)
    · exact .inr (.inl ⟨u, rfl, rfl, by simp⟩)

/-- A unit held across a change of width fits the new width. -/
theorem refitUnit_fits (m : Mode) (n place k : Nat) (u : Unit16) : unitFits m (refitUnit m n place k u) := by
  unfold refitUnit
  split
  · assumption
  · exact trunc_trunc _ _

theorem length_refitUnits (m : Mode) (n place k : Nat) (q : List Unit16) :
    (refitUnits m n place k q).length = q.length := by
  induction q generalizing k with
  | nil => rfl
  | cons u rest ih => simp [refitUnits, ih]

theorem refitUnits_fits {m : Mode} {n place k : Nat} {q : List Unit16} {u : Unit16}
    (h : u ∈ refitUnits m n place k q) : unitFits m u := by
  induction q generalizing k with
  | nil => simp [refitUnits] at h
  | cons a rest ih =>
    rcases List.mem_cons.1 h with rfl | h
    · exact refitUnit_fits ..
    · exact ih h

theorem length_freeUnits (m : Mode) (step place n : Nat) : (freeUnits m step place n).length = n := by
  induction n with
  | zero => rfl
  | succ n ih => simp [freeUnits, ih]

theorem freeUnits_fits {m : Mode} {step place n : Nat} {u : Unit16} (h : u ∈ freeUnits m step place n) :
    unitFits m u := by
  induction n with
  | zero => simp [freeUnits] at h
  | succ n ih =>
    rcases List.mem_cons.1 h with rfl | h
    · exact trunc_trunc _ _
    · exact ih h

/-- A queue held across a change of mode is within the new depth (R25). -/
theorem length_refitQueue_le (m : Mode) (n place depth : Nat) (q : List Unit16) :
    (refitQueue m n place depth q).length ≤ depth := by
  unfold refitQueue
  split
  · rw [length_refitUnits]; assumption
  · rw [length_freeUnits]
    exact Nat.le_of_lt_succ (Nat.mod_lt _ (Nat.succ_pos _))

/-- Every unit of a queue held across a change of mode has the new width (R80). -/
theorem refitQueue_fits {m : Mode} {n place depth : Nat} {q : List Unit16} {u : Unit16}
    (h : u ∈ refitQueue m n place depth q) : unitFits m u := by
  unfold refitQueue at h
  split at h
  · exact refitUnits_fits h
  · exact freeUnits_fits h

/-- What LOAD can do (R85). -/
theorem loadStep_cases (s : State) :
    loadStep s = s ∨
    ∃ u rest, s.xcvr.sr = none ∧ s.xcvr.txq = u :: rest ∧
      loadStep s = { s with xcvr := { s.xcvr with txq := rest, sr := some u } } := by
  unfold loadStep
  split
  · next u rest h1 h2 => exact .inr ⟨u, rest, h1, h2, rfl⟩
  · exact .inl rfl

/-- An engine step, settled: what its phase does, or a fault recorded. -/
theorem engineTurn_cases (s : State) :
    (∃ t, engineStep s = .ok t ∧ settle s (engineStep s) = t) ∨
    (∃ c, engineStep s = .error c ∧ settle s (engineStep s) = raiseFault c s) := by
  cases h : engineStep s with
  | ok t => exact .inl ⟨t, rfl, rfl⟩
  | error c => exact .inr ⟨c, rfl, rfl⟩

/-- The faults an engine step can raise, and where (R93). -/
theorem engineStep_error {s : State} {c : Fault} (h : engineStep s = .error c) :
    (c = .txWriteWhenFull ∧ s.eng.phase = .aPush ∧ txfull s = true ∧ s.eng.inflight.toNat < s.params.fifoLimit) ∨
    (c = .inflightUnderflow ∧ s.eng.phase = .aPop ∧ s.eng.inflight = 0#8 ∧ s.xcvr.rxq ≠ []) := by
  have pop : ∀ after : Phase, s.xcvr.rxq ≠ [] → popOne after s ≠ .error c := by
    intro after hq hp
    unfold popOne at hp
    obtain ⟨u, rest, hu⟩ := List.exists_cons_of_ne_nil hq
    rw [readUnit_cons _ (show (pollRxempty s).xcvr.rxq = u :: rest from hu)] at hp
    simp only at hp
    split at hp <;> simp at hp
  unfold engineStep at h
  split at h
  · simp at h
  · simp at h
  · next hph =>
    left
    unfold stepAPush at h
    split at h
    · simp at h
    · split at h
      · next hl =>
        split at h
        · simp at h
        · rw [writeUnit_eq] at h
          cases hf : txfull s
          · simp [hf] at h
          · simp [hf] at h; exact ⟨h.symm, hph, rfl, hl⟩
      · simp at h
  · next hph =>
    right
    unfold stepAPop at h
    split at h
    · simp at h
    · next hf =>
      have hq : s.xcvr.rxq ≠ [] := rxempty_eq_false.1 (by simpa [pollRxempty] using hf)
      split at h
      · next hi => exact ⟨(Except.error.inj h).symm, hph, hi, hq⟩
      · exact absurd h (pop _ hq)
  · unfold stepBDrain at h
    split at h
    · simp at h
    · split at h
      · simp at h
      · next hf =>
        have hq : s.xcvr.rxq ≠ [] := rxempty_eq_false.1 (by simpa [pollRxempty] using hf)
        exact absurd h (pop _ hq)
  · rcases stepSWaitTx_cases s with ⟨_, he⟩ | ⟨_, he⟩ <;> rw [he] at h <;> simp at h
  · rcases stepSWaitRx_cases s with ⟨_, he⟩ | ⟨_, _, _, he⟩ <;> rw [he] at h <;> simp at h

/-- What one turn can do, by its agent. -/
inductive TurnEffect (s : State) : Turn → State → Prop
  | pass (t : Turn) (ht : t ≠ .reset) : TurnEffect s t s
  | host {t : State} (h : HostEffect s t) : TurnEffect s .host t
  | engine {t : State} (hb : busy s = true) (hk : s.stuck = false) (h : engineStep s = .ok t) : TurnEffect s .engine t
  | engineFault {c : Fault} (hb : busy s = true) (hk : s.stuck = false) (h : engineStep s = .error c) :
      TurnEffect s .engine (raiseFault c s)
  | load (u : Unit16) (rest : List Unit16) (hs : s.xcvr.sr = none) (hq : s.xcvr.txq = u :: rest) :
      TurnEffect s .load { s with xcvr := { s.xcvr with txq := rest, sr := some u } }
  | shift (u : Unit16) (hs : s.xcvr.sr = some u) (hf : rxfull s = false) :
      TurnEffect s .shift { s with
        xcvr := { s.xcvr with sr := none,
                              rxq := s.xcvr.rxq ++ [trunc (currentMode s) (peerAnswer s.stepNo u s.peer).1] },
        peer := (peerAnswer s.stepNo u s.peer).2 }
  | shiftFault (u : Unit16) (hs : s.xcvr.sr = some u) (hf : rxfull s = true) :
      TurnEffect s .shift (raiseFault .rxOverrun s)
  | reset : TurnEffect s .reset (resetBlock s)
  | request {w : XifRequest} {t : State} (hb : busy s = false) (hp : s.placed = some w) (h : RequestEffect s t) :
      TurnEffect s .engine t.popPlaced

/-- A turn always answers a next state, and does one of the things its agent can do. -/
theorem runTurn_effect (t : Turn) (s : State) (hs : t = .host → s.halted = false) :
    ∃ v, runTurn t s = .next v ∧ TurnEffect s t v := by
  cases t with
  | host =>
    simp only [runTurn]
    split
    · exact ⟨_, rfl, .pass _ (by simp)⟩
    · next op rest hp =>
      obtain ⟨v, hv, he⟩ := hostMove_effect op rest s (hs rfl) hp
      exact ⟨v, hv, .host he⟩
  | engine =>
    simp only [runTurn, engineTurn]
    split
    · next hb =>
      refine ⟨_, rfl, ?_⟩
      split
      · exact .pass _ (by simp)
      · next hk =>
        rcases engineTurn_cases s with ⟨v, h1, h2⟩ | ⟨c, h1, h2⟩
        · rw [h2]; exact .engine hb (by simpa using hk) h1
        · rw [h2]; exact .engineFault hb (by simpa using hk) h1
    · next hb =>
      unfold placedStep
      split
      · next w hp =>
        obtain ⟨v, hv, he⟩ := serveXif_effect w s
        rw [hv]
        exact ⟨_, rfl, .request (by simpa using hb) hp he⟩
      · exact ⟨_, rfl, .pass _ (by simp)⟩
  | load =>
    refine ⟨_, rfl, ?_⟩
    rcases loadStep_cases s with h | ⟨u, rest, h1, h2, h3⟩
    · rw [h]; exact .pass _ (by simp)
    · rw [h3]; exact .load u rest h1 h2
  | shift =>
    refine ⟨_, rfl, ?_⟩
    rcases shiftStep_cases s with ⟨_, h⟩ | ⟨u, h1, h2, h⟩ | ⟨u, h1, h2, h⟩
    · rw [h]; exact .pass _ (by simp)
    · rw [h]; exact .shiftFault u h1 h2
    · rw [h]; exact .shift u h1 h2
  | reset => exact ⟨_, rfl, .reset⟩

/-- A free choice is one of the turns it is made among. -/
theorem chooseTurn_mem {n : Nat} {l : List Turn} {t : Turn} (h : chooseTurn n l = some t) : t ∈ l := by
  unfold chooseTurn at h
  split at h
  · simp at h
  · simp at h; simp [h]
  · exact List.mem_of_getElem? h

/-- Only the host, the engine and the transceiver are chosen freely (R79). -/
theorem enabledTurns_mem {s : State} {t : Turn} (h : t ∈ enabledTurns s) :
    t = .host ∨ t = .engine ∨ t = .load ∨ t = .shift := by
  unfold enabledTurns at h
  simp only [List.mem_append] at h
  rcases h with ((h | h) | h) | h <;> split at h <;> simp at h <;> simp [h]

/-- Whose step it is: the schedule's next turn, or, with an empty schedule, an agent that can move (R79). -/
theorem nextTurn_cases {s : State} {t : Turn} (h : nextTurn s = some t) :
    (∃ ts, s.turns = t :: ts) ∨ (s.turns = [] ∧ t ∈ enabledTurns s) := by
  unfold nextTurn at h
  split at h
  · next u ts hts => exact .inl ⟨ts, by rw [hts, Option.some.inj h]⟩
  · next hts => exact .inr ⟨hts, chooseTurn_mem h⟩

theorem nextTurn_cons {s : State} {t : Turn} {ts : List Turn} (h : s.turns = t :: ts) : nextTurn s = some t := by
  unfold nextTurn; rw [h]

/-- What a step that answers a next state has done: a reset; or, in a machine where nothing has stopped, a refusal of bad
parameters, nothing at all with nobody to move, or one turn, scheduled or chosen freely. -/
theorem step_cases {s t : State} (h : step s = .next t) :
    (∃ ts, s.turns = .reset :: ts ∧ t = (resetBlock (s.setTurns ts)).tick) ∨
    (s.faults = [] ∧ s.refused = none ∧ paramsAdmitted s.params = false ∧ t = refuse .badConfig s) ∨
    (s.Running ∧ nextTurn s = none ∧ t = s) ∨
    (s.Running ∧ ∃ tn v, nextTurn s = some tn ∧ tn ≠ .reset ∧ TurnEffect (s.setTurns s.turns.tail) tn v ∧
      t = v.tick) := by
  unfold step stepOnce at h
  split at h
  · next ts hts => exact .inl ⟨ts, hts, by simpa [onNext, runTurn] using h.symm⟩
  · simp at h
  · simp at h
  · next hfs hrf hnr =>
    right
    split at h
    · next hp =>
      have hrun : s.Running := ⟨hfs, hrf, hp⟩
      right
      unfold agentStep at h
      split at h
      · next tn htn =>
        right
        obtain ⟨v, hv, he⟩ := runTurn_effect tn (s.setTurns s.turns.tail) fun _ => running_not_halted hrun
        rw [hv] at h
        refine ⟨hrun, tn, v, htn, ?_, he, by simpa [onNext] using h.symm⟩
        rintro rfl
        rcases nextTurn_cases htn with ⟨ts, hts⟩ | ⟨_, hm⟩
        · exact hnr ts hts
        · simpa using enabledTurns_mem hm
      · next hn => left; exact ⟨hrun, hn, by simpa using h.symm⟩
    · next hp => exact .inl ⟨hfs, hrf, by simpa using hp, by simpa using h.symm⟩

/-- A turn of a running machine, other than a reset, scheduled or chosen, runs that turn. -/
theorem step_nextTurn {s : State} {tn : Turn} (h : s.Running) (hn : nextTurn s = some tn) (hr : tn ≠ .reset) :
    step s = onNext (runTurn tn (s.setTurns s.turns.tail)) State.tick := by
  obtain ⟨hf, hrf, hp⟩ := h
  unfold step stepOnce
  split
  · next ts' hts' => rw [nextTurn_cons hts'] at hn; exact absurd (Option.some.inj hn).symm hr
  · next hf' _ => rw [hf] at hf'; simp at hf'
  · next hrf' _ => rw [hrf] at hrf'; simp at hrf'
  · simp only [hp, if_true, agentStep, hn]

/-- The next turn of a running machine, other than a reset, is what the step runs. -/
theorem step_turn {s : State} {tn : Turn} {ts : List Turn} (h : s.NextTurn tn ts) (hr : tn ≠ .reset) :
    step s = onNext (runTurn tn (s.setTurns ts)) State.tick := by
  rw [step_nextTurn h.1 h.2.1 hr, h.2.2]

/-- A turn of an engine that can move runs its phase and counts the step. -/
theorem step_engine {s v : State} {ts : List Turn} (h : s.EngineTurn ts)
    (hv : settle (s.setTurns ts) (engineStep (s.setTurns ts)) = v) : step s = .next v.tick := by
  rw [step_turn h.1 (by simp)]
  have hb : busy (s.setTurns ts) = true := h.2.2
  have hk : (s.setTurns ts).stuck = false := h.2.1
  simp only [runTurn, engineTurn, hb, hk, if_true, Bool.false_eq_true, if_false, hv, onNext]

end Sys2Proof.Machine
end

