-- ==== Sys2Proof/Tests/Slice0.lean ====
section
/-! SUPPORT. Tests with expected values from spec/ (95_test_vectors.md unless a comment says otherwise), the WellFormed
smoke, decoding of words written out from the spec's encodings, and for every statement with hypotheses a witness that
meets them. -/

namespace Sys2Proof.Tests

open Sys2Proof.Machine

/-! ### Well-formedness and decoding -/

/-- R48: in Width8 a WRITE_UNIT with a bit in WDATA[15:8] is ill-formed; in Width16 the same data is not. -/
theorem test_wellFormed_refuses : (Instr.writeUnit false 0x1234#16).wellFormed = false ∧
    (Instr.writeUnit false 0x0100#16).wellFormed = false ∧ (Instr.writeUnit true 0x1234#16).wellFormed = true ∧
    (Instr.writeUnit false 0x00FF#16).wellFormed = true := by decide

/-- R46: RSV = 0, RXP = 0, TXP = 0, OP = 0b01. -/
theorem test_decode_xchg : decodeCmd 0b00000000000000000000000000000001#32 = .ok .xchg := by decide

/-- R46: OP = 0b10 with TXP (bit 2) and RXP (bit 3) each alone and together. -/
theorem test_decode_xbuf :
    decodeCmd 0b00000000000000000000000000000010#32 = .ok (.xbuf false false) ∧
    decodeCmd 0b00000000000000000000000000000110#32 = .ok (.xbuf true false) ∧
    decodeCmd 0b00000000000000000000000000001010#32 = .ok (.xbuf false true) ∧
    decodeCmd 0b00000000000000000000000000001110#32 = .ok (.xbuf true true) := by decide

/-- R48: XOP = 0b001 and XOP = 0b010, every other bit 0. -/
theorem test_decode_polls :
    decodeXif 0b00000000000000000001#20 = .ok .pollTxfull ∧ decodeXif 0b00000000000000000010#20 = .ok .pollRxempty := by
  decide

/-- R48: WDATA = 0x00A5, W16 = 0, XOP = 0b011; and WDATA = 0x1234, W16 = 1. -/
theorem test_decode_writeUnit :
    decodeXif 0b00000000101001010011#20 = .ok (.writeUnit false 0x00A5#16) ∧
    decodeXif 0b00010010001101001011#20 = .ok (.writeUnit true 0x1234#16) := by decide

/-- R48: WDATA = 0, W16 = 0 or 1, XOP = 0b100. -/
theorem test_decode_readUnit :
    decodeXif 0b00000000000000000100#20 = .ok (.readUnit false) ∧
    decodeXif 0b00000000000000001100#20 = .ok (.readUnit true) := by decide

/-- Section 2.2: the reserved CMD words. -/
theorem test_decode_reserved_cmd :
    [0x0#32, 0x3#32, 0x4#32, 0x5#32, 0x7#32, 0x8#32, 0x9#32, 0xB#32, 0xC#32, 0xD#32, 0xF#32, 0x11#32, 0x12#32,
      0x80000002#32].map decodeCmd = List.replicate 14 (.error .reservedCmd) := by decide

/-- R49: the XIF words the engine never issues, and the word of no transaction (R48). -/
theorem test_decode_reserved_xif :
    decodeXif 0x00000#20 = .error .noTransaction ∧
    [0x00005#20, 0x00006#20, 0x00007#20, 0x00009#20, 0x0000A#20, 0x00011#20, 0x00014#20].map decodeXif =
      List.replicate 7 (.error .reservedXif) := by decide

/-- Section 2.2: the request words of the engine, from the encoder. -/
theorem test_encode :
    encode (.writeUnit false 0x01#16) = .xif 0x00013#20 ∧ encode (.writeUnit true 0xBEEF#16) = .xif 0xBEEFB#20 ∧
    encode (.xbuf true true) = .cmd 0x0000000E#32 ∧ encode (.readUnit true) = .xif 0x0000C#20 := by decide

/-- spec/opcode_table.json: each row's match, in the table's numbering. -/
theorem test_table_rows :
    decodeTableWord 32 1 = some .xchg ∧ decodeTableWord 32 2 = some (.xbuf false false) ∧
    decodeTableWord 24 1 = some .pollTxfull ∧ decodeTableWord 24 2 = some .pollRxempty ∧
    decodeTableWord 24 3 = some (.writeUnit false 0#16) ∧ decodeTableWord 24 4 = some (.readUnit false) := by decide

/-! ### Single steps -/

/-- The state after an outcome. -/
def after : Host.Outcome State Fault Refusal → Option State
  | .next t => some t
  | .fault _ => none
  | .refused _ => none

/-- The fault codes recorded. -/
def codes (s : State) : List Fault := s.faults.map (·.code)

/-- A running machine with a host operation to do. -/
def hostDoes (op : HostOp) : State := { State.reset with turns := [.host], hostProg := [op] }

/-- A running Width8 machine in a phase, its engine moving next. -/
def engineIn (p : Phase) : State := { State.reset with turns := [.engine], eng := { Engine.reset with phase := p } }

/-- The transceiver's queues and shift register. -/
def holding (txq : List Unit16) (sr : Option Unit16) (rxq : List Unit16) : State :=
  { State.reset with xcvr := { txq := txq, sr := sr, rxq := rxq } }

/-- Eight units. -/
def eight : List Unit16 := [1#16, 2#16, 3#16, 4#16, 5#16, 6#16, 7#16, 8#16]

/-- V-XCHG-1: `WR CMD, 0x1` latches 0x12A5 and STATUS reads 0x15. -/
theorem test_xchg_accepted :
    (after (step { hostDoes (.store 4 0#32 1#32) with regs := { HostRegs.reset with txdata := 0x12A5#16 } })).map
      (fun t => (t.eng.txunit, readReg t .status, t.hostProg)) = some (0x12A5#16, 0x15#32, []) := by decide

/-- V-XCHG-6 `#2`: a stale received unit completes the command; STATUS reads 0x02. -/
theorem test_xchg_pops :
    (after (step { engineIn .sWaitRx with xcvr := { txq := [0x11#16], sr := none, rxq := [0x99#16] } })).map
      (fun t => (readReg t .rxdata, readReg t .status, t.xcvr)) =
      some (0x99#32, 0x02#32, { txq := [0x11#16], sr := none, rxq := [] }) := by decide

/-- V-XBUF-3 `#2`: Width16, bytes 34 12 at 0x1000: the pushed unit is 0x1234 and the pointer moves by 2. -/
theorem test_xbuf_pushes :
    (after (step { State.reset with
      turns := [.engine], cfgMode16 := true, mem := [(0x1000, 0x34#8), (0x1001, 0x12#8)]
      eng := { Engine.reset with phase := .aPush, op := .xbuf, m := .width16, size := .two, count := 2#32,
                                 txptr := 0x1000#32, txp := true } })).map
      (fun t => (t.xcvr.txq, t.eng.txptr, t.eng.sent, t.eng.inflight, t.eng.phase)) =
      some ([0x1234#16], 0x1002#32, 1#32, 1#8, .aPop) := by decide

/-- V-XBUF-13: a misaligned present buffer in Width16 records code 3 and leaves STATUS, DONE among it, as it was. -/
theorem test_xbuf_misaligned :
    (after (step { hostDoes (.store 4 0#32 0xE#32) with
      cfgMode16 := true
      regs := { HostRegs.reset with txaddr := 0x1001#32, rxaddr := 0x2000#32, len := 4#32, done := true } })).map
      (fun t => (codes t, readReg t .status)) = some ([.misalignedBuffer], 0x02#32) := by decide

/-- R67, R68, R32: a refused write of the received unit: the unit is popped and lost, and the engine stands in A_POP before
the decrement, STATUS.INFLIGHT still 1. -/
theorem test_xbuf_write_refused :
    (after (step { State.reset with
      turns := [.engine]
      params := { defaultParams with
        denied := [{ first := 0x2000#32, last := 0x2000#32, bytes := 1, kind := .write }] }
      xcvr := { txq := [], sr := none, rxq := [1#16] }
      eng := { Engine.reset with phase := .aPop, op := .xbuf, count := 1#32, sent := 1#32, inflight := 1#8,
                                 rxptr := 0x2000#32, rxp := true } })).map
      (fun t => (t.stuck, t.xcvr.rxq, t.eng.inflight, readReg t .status)) =
      some (true, [], 1#8, 0x010D#32) := by decide

/-- V-XIF-1: eight units queued read as full. -/
theorem test_pollTxfull_full : (after (exec .pollTxfull (holding eight none []))).map (·.xifResp) = some 1#17 := by decide

/-- V-XIF-2: the shift register does not count. -/
theorem test_pollTxfull_shift : (after (exec .pollTxfull (holding [] (some 5#16) []))).map (·.xifResp) = some 0#17 := by
  decide

/-- V-XIF-3: a unit in the shift register is not received yet. -/
theorem test_pollRxempty_shift : (after (exec .pollRxempty (holding [] (some 7#16) []))).map (·.xifResp) = some 1#17 := by
  decide

/-- Section 2.2: one unit waiting. -/
theorem test_pollRxempty_waiting : (after (exec .pollRxempty (holding [] none [7#16]))).map (·.xifResp) = some 0#17 := by
  decide

/-- V-XIF-4: the unit joins the tail of the queue. -/
theorem test_writeUnit_queues :
    (after (exec (.writeUnit false 2#16) (holding [1#16] none []))).map (·.xcvr.txq) = some [1#16, 2#16] := by decide

/-- V-XIF-5: a write into a full queue is code 4. -/
theorem test_writeUnit_full :
    (after (exec (.writeUnit false 2#16) (holding eight none []))).map codes = some [.txWriteWhenFull] := by decide

/-- V-XIF-6 and section 2.2: the oldest unit is answered in bits [16:1]; 0xBEEF reads 0x17DDE. -/
theorem test_readUnit_oldest :
    (after (exec (.readUnit false) (holding [] none [1#16, 2#16]))).map (fun t => (t.xifResp, t.xcvr.rxq)) =
      some (0x00002#17, [2#16]) ∧
    (after (exec (.readUnit true) (holding [] none [0xBEEF#16]))).map (·.xifResp) = some 0x17DDE#17 := by decide

/-- V-XIF-7: a read of an empty receive side is code 5. -/
theorem test_readUnit_empty :
    (after (exec (.readUnit false) (holding [] none []))).map codes = some [.rxReadWhenEmpty] := by decide

/-- V-EXC-1, V-XCHG-7: a reserved word while busy is code 1, and V-EXC-2: a 2-byte write while busy is a refusal. -/
theorem test_priority :
    (after (step { hostDoes (.store 4 0#32 5#32) with eng := { Engine.reset with phase := .sWaitTx } })).map codes =
      some [.cmdWhileBusy] ∧
    (after (step { hostDoes (.store 2 0#32 1#32) with eng := { Engine.reset with phase := .sWaitTx } })).map
      (fun t => (codes t, t.refused)) = some ([], some .badHostAccess) := by decide

/-- V-XIF-8 and V-XIF-9: LOAD and SHIFT. -/
theorem test_transceiver :
    (after (step { holding [0x0A#16, 0x0B#16] none [] with turns := [.load] })).map (·.xcvr) =
      some { txq := [0x0B#16], sr := some 0x0A#16, rxq := [] } ∧
    (after (step { holding [] (some 0x0A#16) [] with turns := [.shift], peer := .loopback })).map (·.xcvr) =
      some { txq := [], sr := none, rxq := [0x0A#16] } := by decide

/-- Log entry 12: a table row's word placed after reset runs in the very next step. -/
theorem test_placed_words :
    (after (step (State.reset.withFetchWord 32 1))).map (·.eng.phase) = some .sWaitTx ∧
    (after (step (State.reset.withFetchWord 24 0xA53))).map (·.xcvr.txq) = some [0xA5#16] := by decide

/-! ### Witnesses: states and operands that meet the hypotheses of each statement -/

theorem running (s : State) (h : s.faults = [] ∧ s.refused = none ∧ s.params = defaultParams) : s.Running :=
  ⟨h.1, h.2.1, by rw [h.2.2]; decide⟩

/-- A turn that the schedule gives. -/
theorem scheduled (s : State) {t : Turn} {ts : List Turn}
    (h : s.faults = [] ∧ s.refused = none ∧ s.params = defaultParams) (ht : s.turns = t :: ts) : s.NextTurn t ts :=
  ⟨running s h, nextTurn_cons ht, by rw [ht]; rfl⟩

theorem hostTurn (op : HostOp) : (hostDoes op).HostTurn op [] [] := ⟨scheduled _ ⟨rfl, rfl, rfl⟩ rfl, rfl⟩

theorem witness_NoSecondWordForAnOperation : decode (.xif 0x1234B#20) = .ok (.writeUnit true 0x1234#16) := by decide

theorem witness_CommandWordsAreFive :
    (0x00000003#32 : Word) ∉ [0x00000001#32, 0x00000002#32, 0x00000006#32, 0x0000000A#32, 0x0000000E#32] ∧
    (0xFFFFFFFF#32 : Word) ∉ [0x00000001#32, 0x00000002#32, 0x00000006#32, 0x0000000A#32, 0x0000000E#32] := by decide

theorem witness_StepRunsTheWrittenCommand :
    (hostDoes (.store 4 0#32 0xE#32)).HostTurn (.store 4 defaultParams.regBase 0xE#32) [] [] ∧
    busy (hostDoes (.store 4 0#32 0xE#32)) = false ∧ decodeCmd 0xE#32 = .ok (.xbuf true true) :=
  ⟨hostTurn _, by decide, by decide⟩

/-- An idle machine given a request word, its engine moving next. -/
def given (w : XifRequest) : State := { State.reset with turns := [.engine], placed := some w }

theorem witness_StepRunsTheDrivenRequest :
    (given 0x00A53#20).NextTurn .engine [] ∧ busy (given 0x00A53#20) = false ∧
    (given 0x00A53#20).placed = some 0x00A53#20 ∧ decodeXif 0x00A53#20 = .ok (.writeUnit false 0x00A5#16) :=
  ⟨scheduled _ ⟨rfl, rfl, rfl⟩ rfl, by decide, rfl, by decide⟩

theorem witness_PlacedWordIsRunNext : State.reset.Running ∧ busy State.reset = false ∧ State.reset.placed = none ∧
    decodeTableWord 32 0xE = some (.xbuf true true) ∧ decodeTableWord 24 0x1234B = some (.writeUnit true 0x1234#16) :=
  ⟨running _ ⟨rfl, rfl, rfl⟩, by decide, rfl, by decide, by decide⟩

theorem witness_XchgIsAccepted : State.reset.eng.phase = .idle ∧ (engineIn .sWaitRx).eng.phase ≠ .idle := by decide

/-- An idle machine about to accept an XBUF. -/
def accepting (mode16 : Bool) (len txaddr rxaddr : Word) : State :=
  { State.reset with
    cfgMode16 := mode16, regs := { HostRegs.reset with len := len, txaddr := txaddr, rxaddr := rxaddr } }

/-- A byte count that gives no unit. -/
def emptyCount (s : State) : Bool := unitsOf s.regs.len (currentMode s) = 0#32

/-- The misalignment of R63 as the statement writes it. -/
def oddPresent (txp rxp : Bool) (s : State) : Bool :=
  s.cfgMode16 = true ∧
    ((txp = true ∧ s.regs.txaddr.getLsbD 0 = true) ∨ (rxp = true ∧ s.regs.rxaddr.getLsbD 0 = true))

/-- Each clause of XBUF's acceptance: busy; a count of 0 in both modes, LEN = 1 in Width16 among them; an odd transmit
buffer and an odd receive buffer with the least count; odd absent buffers, and odd buffers in Width8. -/
theorem witness_XbufIsAccepted :
    (engineIn .aPop).eng.phase ≠ .idle ∧
    ((accepting true 1#32 0x1001#32 0#32).eng.phase = .idle ∧ emptyCount (accepting true 1#32 0x1001#32 0#32) = true ∧
      emptyCount (accepting false 0#32 0#32 0#32) = true) ∧
    (emptyCount (accepting true 2#32 0x1001#32 0x2000#32) = false ∧
      oddPresent true true (accepting true 2#32 0x1001#32 0x2000#32) = true ∧
      oddPresent false true (accepting true 2#32 0x1000#32 0x2001#32) = true) ∧
    (emptyCount (accepting false 1#32 0x1001#32 0x2001#32) = false ∧
      oddPresent true true (accepting false 1#32 0x1001#32 0x2001#32) = false ∧
      oddPresent false true (accepting true 2#32 0x1001#32 0x2000#32) = false) := by decide

theorem witness_PollTxfullAnswers : (holding eight none []).xcvr.txq.length = txDepth defaultParams .width8 ∧
    State.reset.xcvr.txq.length ≠ txDepth defaultParams .width8 := by decide

theorem witness_PollRxemptyAnswers : State.reset.xcvr.rxq = [] ∧ (holding [] none [7#16]).xcvr.rxq ≠ [] := by decide

theorem witness_WriteUnitQueues :
    (holding [1#16] none []).xcvr.txq.length ≠ txDepth defaultParams .width8 ∧
    (holding eight none []).xcvr.txq.length = txDepth defaultParams .width8 := by decide

theorem witness_ReadUnitTakesTheOldest :
    (holding [] none [1#16, 2#16]).xcvr.rxq = 1#16 :: [2#16] ∧ State.reset.xcvr.rxq = [] := by decide

theorem witness_CommandFrame : (∃ t, exec .xchg State.reset = .next t) ∧
    ∃ t, exec (.xbuf true true) State.reset = .next t := ⟨⟨_, rfl⟩, _, rfl⟩

theorem witness_TransactionFrame : (∃ t, exec .pollTxfull State.reset = .next t) ∧
    (∃ t, exec .pollRxempty State.reset = .next t) ∧ (∃ t, exec (.writeUnit true 1#16) State.reset = .next t) ∧
    ∃ t, exec (.readUnit true) (holding [] none [1#16]) = .next t := ⟨⟨_, rfl⟩, ⟨_, rfl⟩, ⟨_, rfl⟩, _, rfl⟩

/-- An engine in a phase, its transceiver holding given units, moving next. -/
def engineHolding (p : Phase) (txq rxq : List Unit16) : State :=
  { engineIn p with xcvr := { txq := txq, sr := none, rxq := rxq } }

theorem engineTurn (s : State) (h : s.faults = [] ∧ s.refused = none ∧ s.params = defaultParams)
    (ht : s.turns = [.engine]) (hk : s.stuck = false) (hb : busy s = true) : s.EngineTurn [] :=
  ⟨scheduled s h ht, hk, hb⟩

theorem witness_XchgPushesWhenNotFull :
    ((engineHolding .sWaitTx eight []).EngineTurn [] ∧ txfull (engineHolding .sWaitTx eight []) = true) ∧
    (engineIn .sWaitTx).EngineTurn [] ∧ (engineIn .sWaitTx).eng.phase = .sWaitTx ∧
    txfull (engineIn .sWaitTx) = false :=
  ⟨⟨engineTurn _ ⟨rfl, rfl, rfl⟩ rfl rfl (by decide), by decide⟩,
    engineTurn _ ⟨rfl, rfl, rfl⟩ rfl rfl (by decide), rfl, by decide⟩

theorem witness_XchgPopsAndCompletes :
    ((engineIn .sWaitRx).EngineTurn [] ∧ (engineIn .sWaitRx).xcvr.rxq = []) ∧
    (engineHolding .sWaitRx [] [0x5A#16]).EngineTurn [] ∧
    (engineHolding .sWaitRx [] [0x5A#16]).xcvr.rxq = 0x5A#16 :: [] :=
  ⟨⟨engineTurn _ ⟨rfl, rfl, rfl⟩ rfl rfl (by decide), rfl⟩,
    engineTurn _ ⟨rfl, rfl, rfl⟩ rfl rfl (by decide), rfl⟩

theorem witness_XbufWaitsForASlot :
    ((engineHolding .waitTx eight []).EngineTurn [] ∧ txfull (engineHolding .waitTx eight []) = true) ∧
    (engineIn .waitTx).EngineTurn [] ∧ txfull (engineIn .waitTx) = false :=
  ⟨⟨engineTurn _ ⟨rfl, rfl, rfl⟩ rfl rfl (by decide), by decide⟩,
    engineTurn _ ⟨rfl, rfl, rfl⟩ rfl rfl (by decide), by decide⟩

/-- A buffered exchange of `count` units with `sent` sent and `inflight` in flight. -/
def xbufIn (p : Phase) (count sent : Word) (inflight : BitVec 8) (txp rxp : Bool) (rxq : List Unit16)
    (denied : List DeniedRange) : State :=
  { State.reset with
    turns := [.engine], params := { defaultParams with denied := denied },
    xcvr := { txq := [], sr := none, rxq := rxq },
    mem := [(0x1000, 0x41#8)],
    eng := { Engine.reset with phase := p, op := .xbuf, count := count, sent := sent, inflight := inflight,
                               txptr := 0x1000#32, rxptr := 0x2000#32, txp := txp, rxp := rxp } }

/-- Accesses of one byte at one address refused. -/
def refusing (a : Word) (kind : AccessKind) : List DeniedRange := [{ first := a, last := a, bytes := 1, kind := kind }]

theorem xbufTurn (p : Phase) (count sent : Word) (inflight : BitVec 8) (txp rxp : Bool) (rxq : List Unit16)
    (denied : List DeniedRange) (hb : p ≠ .idle) :
    (xbufIn p count sent inflight txp rxp rxq denied).EngineTurn [] :=
  ⟨⟨⟨rfl, rfl, rfl⟩, rfl, rfl⟩, rfl, decide_eq_true hb⟩

/-- A turn that no schedule gives: the engine, the host, LOAD and SHIFT, each the one agent that can move. -/
theorem witness_chosen_turns :
    ({ engineIn .aPop with turns := [] } : State).EngineTurn [] ∧
    ({ hostDoes (.configure true) with turns := [] } : State).HostTurn (.configure true) [] [] ∧
    (holding [1#16] none []).NextTurn .load [] ∧ (holding [] (some 1#16) []).NextTurn .shift [] :=
  ⟨⟨⟨running _ ⟨rfl, rfl, rfl⟩, rfl, rfl⟩, rfl, by decide⟩, ⟨⟨running _ ⟨rfl, rfl, rfl⟩, rfl, rfl⟩, rfl⟩,
    ⟨running _ ⟨rfl, rfl, rfl⟩, rfl, rfl⟩, running _ ⟨rfl, rfl, rfl⟩, rfl, rfl⟩

/-- A push of the last unit, one below the cap, from memory or not, with some accesses refused. -/
def pushing (txp : Bool) (denied : List DeniedRange) : State := xbufIn .aPush 8#32 7#32 5#8 txp true [] denied

/-- The clauses of A_PUSH at their boundaries: every unit sent; the cap of 6 reached; one below the cap with the read
refused, admitted, and not needed; and a full queue. -/
theorem witness_XbufPushesUnderTheCap :
    (∀ n i txp d, (xbufIn .aPush 8#32 n i txp true [] d).EngineTurn []) ∧
    (xbufIn .aPush 8#32 8#32 0#8 true true [] []).eng.sent = (xbufIn .aPush 8#32 8#32 0#8 true true [] []).eng.count ∧
    ((xbufIn .aPush 8#32 7#32 6#8 true true [] []).eng.sent ≠ (xbufIn .aPush 8#32 7#32 6#8 true true [] []).eng.count ∧
      (xbufIn .aPush 8#32 7#32 6#8 true true [] []).params.fifoLimit ≤
        (xbufIn .aPush 8#32 7#32 6#8 true true [] []).eng.inflight.toNat) ∧
    ((pushing true []).eng.sent ≠ (pushing true []).eng.count ∧
      (pushing true []).eng.inflight.toNat < (pushing true []).params.fifoLimit) ∧
    txUnit (pushing true (refusing 0x1000#32 .read)) = none ∧
    (txUnit (pushing true []) = some 0x0041#16 ∧ txfull (pushing true []) = false) ∧
    txUnit (pushing false (refusing 0x1000#32 .read)) = some 0x00C3#16 ∧ txfull (engineHolding .aPush eight []) = true :=
  ⟨fun _ _ _ _ => xbufTurn _ _ _ _ _ _ _ _ (by decide), by decide, by decide, by decide, by decide, by decide, by decide,
    by decide⟩

theorem witness_XbufPopsOnEveryIteration :
    (∀ i rxp q d, (xbufIn .aPop 8#32 3#32 i true rxp q d).EngineTurn []) ∧
    (xbufIn .aPop 8#32 3#32 0#8 true true [] []).xcvr.rxq = [] ∧
    ((xbufIn .aPop 8#32 3#32 0#8 true true [1#16] []).xcvr.rxq ≠ [] ∧
      (xbufIn .aPop 8#32 3#32 0#8 true true [1#16] []).eng.inflight = 0#8) ∧
    (xbufIn .aPop 8#32 3#32 1#8 true true [1#16] []).xcvr.rxq = 1#16 :: [] ∧
    (xbufIn .aPop 8#32 3#32 1#8 true true [1#16] []).eng.inflight ≠ 0#8 ∧
    memAdmit defaultParams 0x2000#32 .one .write = true ∧
    memAdmit { defaultParams with denied := refusing 0x2000#32 .write } 0x2000#32 .one .write = false :=
  ⟨fun _ _ _ _ => xbufTurn _ _ _ _ _ _ _ _ (by decide), rfl, by decide, rfl, by decide, by decide, by decide⟩

theorem witness_XbufDrainsTheTail :
    (∀ i rxp q d, (xbufIn .bDrain 8#32 8#32 i true rxp q d).EngineTurn []) ∧
    (xbufIn .bDrain 8#32 8#32 0#8 true true [] []).eng.inflight = 0#8 ∧
    ((xbufIn .bDrain 8#32 8#32 1#8 true true [] []).eng.inflight ≠ 0#8 ∧
      (xbufIn .bDrain 8#32 8#32 1#8 true true [] []).xcvr.rxq = []) ∧
    (xbufIn .bDrain 8#32 8#32 1#8 true true [8#16] []).xcvr.rxq = 8#16 :: [] :=
  ⟨fun _ _ _ _ => xbufTurn _ _ _ _ _ _ _ _ (by decide), rfl, by decide, rfl⟩

/-- An engine held by a refused receive write, its unit lost but counted, one more received and one in the shift register. -/
def held (turns : List Turn) : State :=
  { xbufIn .aPop 8#32 3#32 3#8 true true [1#16] (refusing 0x2000#32 .write) with
    turns := turns, stuck := true, xcvr := { txq := [], sr := some 2#16, rxq := [1#16] }, peer := .loopback }

/-- The held engine's own turn, and a SHIFT beside it. -/
theorem witness_RefusedAccessHoldsTheEngine :
    (held [.engine]).stuck = true ∧ busy (held [.engine]) = true ∧ (held [.engine]).NextTurn .engine [] ∧
    (after (step (held [.shift]))).map (·.xcvr.rxq) = some [1#16, 2#16] :=
  ⟨rfl, by decide, ⟨⟨rfl, rfl, by decide⟩, rfl, rfl⟩, by decide⟩

/-- A turn of an engine that can move answers a next state. -/
theorem answers {s : State} {ts : List Turn} (h : s.EngineTurn ts) : ∃ t, step s = .next t := ⟨_, step_engine h rfl⟩

/-- A pop to no buffer and a push from none, every access there would be refused. -/
theorem witness_AbsentBufferTouchesNoMemory :
    (xbufIn .aPop 8#32 3#32 1#8 false false [1#16] (refusing 0x2000#32 .write)).EngineTurn [] ∧
    inXbuf .aPop = true ∧
    (∃ t, step (xbufIn .aPop 8#32 3#32 1#8 false false [1#16] (refusing 0x2000#32 .write)) = .next t) ∧
    (pushing false (refusing 0x1000#32 .read)).EngineTurn [] ∧ inXbuf .aPush = true ∧
    ∃ t, step (pushing false (refusing 0x1000#32 .read)) = .next t :=
  ⟨xbufTurn _ _ _ _ _ _ _ _ (by decide), rfl, answers (xbufTurn _ _ _ _ _ _ _ _ (by decide)),
    xbufTurn _ _ _ _ _ _ _ _ (by decide), rfl, answers (xbufTurn _ _ _ _ _ _ _ _ (by decide))⟩

theorem witness_EngineStoresOneUnit :
    (xbufIn .aPop 8#32 3#32 1#8 true true [1#16] []).EngineTurn [] ∧
    (∃ t, step (xbufIn .aPop 8#32 3#32 1#8 true true [1#16] []) = .next t) ∧ (0x2001#32 : Word) ≠ 0x2000#32 :=
  ⟨xbufTurn _ _ _ _ _ _ _ _ (by decide), answers (xbufTurn _ _ _ _ _ _ _ _ (by decide)), by decide⟩

/-- A push, and a pop whose write is refused. -/
theorem witness_PointersFollowTheCounts :
    (xbufIn .aPush 8#32 3#32 1#8 true true [1#16] []).EngineTurn [] ∧
    (∃ t, step (xbufIn .aPush 8#32 3#32 1#8 true true [1#16] []) = .next t) ∧
    (xbufIn .aPush 8#32 3#32 1#8 true true [1#16] []).eng.txp = true ∧
    (after (step (xbufIn .aPop 8#32 3#32 1#8 true true [1#16] []))).map (·.stuck) = some false ∧
    (xbufIn .aPop 8#32 3#32 1#8 true true [1#16] (refusing 0x2000#32 .write)).EngineTurn [] ∧
    (after (step (xbufIn .aPop 8#32 3#32 1#8 true true [1#16] (refusing 0x2000#32 .write)))).map (·.stuck) =
      some true :=
  ⟨xbufTurn _ _ _ _ _ _ _ _ (by decide), answers (xbufTurn _ _ _ _ _ _ _ _ (by decide)), rfl, by decide,
    xbufTurn _ _ _ _ _ _ _ _ (by decide), by decide⟩

/-- Ends by completion, and by reset. -/
theorem witness_OnlyCompletionOrResetEndsACommand :
    ((xbufIn .bDrain 8#32 8#32 0#8 true true [] []).eng.phase ≠ .idle ∧
      (after (step (xbufIn .bDrain 8#32 8#32 0#8 true true [] []))).map busy = some false) ∧
    (after (step { engineIn .aPush with turns := [.reset] })).map busy = some false := by decide

/-- The invariant of a Width8 machine with an empty transceiver, from that of its engine. -/
theorem inv_quiet (e : Engine) (ts : List Turn) (peer : Peer) (mem : List Host.Cell) (hw : memWf mem = true)
    (h : EngineOk defaultParams e) (hm : e.m = .width8) :
    ({ State.reset with eng := e, turns := ts, peer := peer, mem := mem } : State).Inv :=
  ⟨hw, h, ⟨Nat.zero_le _, Nat.zero_le _, fun u hu => by simp [State.reset, Transceiver.reset, pipeline, srUnits] at hu⟩,
    fun _ => hm, fun hk => by simp [State.reset] at hk, by simp [State.reset]⟩

theorem witness_XbufCompletesWithEveryUnitSent :
    (xbufIn .bDrain 8#32 8#32 0#8 true true [] []).Inv ∧
    (xbufIn .bDrain 8#32 8#32 0#8 true true [] []).EngineTurn [] ∧ inXbuf .bDrain = true ∧
    (after (step (xbufIn .bDrain 8#32 8#32 0#8 true true [] []))).map busy = some false :=
  ⟨inv_quiet _ _ _ _ (by decide) ⟨by decide, by decide, by decide, by decide, by decide, by decide, by decide⟩ rfl,
    xbufTurn _ _ _ _ _ _ _ _ (by decide), rfl, by decide⟩

/-- A push from memory in Width8, its unit 0x0041, and one of DUMMY. -/
theorem witness_EngineIssuesWellFormedWrites :
    (xbufIn .aPush 8#32 7#32 5#8 true true [] []).Inv ∧
    txUnit (xbufIn .aPush 8#32 7#32 5#8 true true [] []) = some 0x0041#16 ∧
    txUnit (xbufIn .aPush 8#32 7#32 5#8 false true [] []) = some 0x00C3#16 :=
  ⟨inv_quiet _ _ _ _ (by decide) ⟨by decide, by decide, by decide, by decide, by decide, by decide, by decide⟩ rfl,
    by decide, by decide⟩

/-- An accepted XCHG on a quiescent transceiver, with the four turns that complete it. -/
def xchgAccepted : State :=
  { State.reset with
    turns := [.engine, .load, .shift, .engine], peer := .loopback,
    eng := { Engine.reset with phase := .sWaitTx, txunit := 0x12A5#16 } }

theorem engineOk_xchgAccepted : EngineOk defaultParams xchgAccepted.eng :=
  ⟨by decide, by decide, by decide, by decide, by decide, by decide, by decide⟩

theorem inv_xchgAccepted : xchgAccepted.Inv := inv_quiet xchgAccepted.eng _ _ _ (by decide) engineOk_xchgAccepted rfl

theorem witness_XchgExchangesOneUnit :
    xchgAccepted.Inv ∧ xchgAccepted.Running ∧ xchgAccepted.Quiescent ∧ xchgAccepted.stuck = false ∧
    xchgAccepted.eng.phase = .sWaitTx ∧ xchgAccepted.turns = .engine :: .load :: .shift :: .engine :: [] ∧
    xchgAccepted.peer = .loopback :=
  ⟨inv_xchgAccepted, running _ ⟨rfl, rfl, rfl⟩, ⟨rfl, rfl, rfl⟩, rfl, rfl, rfl, rfl⟩

theorem witness_HostReadsEveryRegister :
    (hostDoes (.load 4 0x00#32 1)).HostTurn (.load 4 (defaultParams.regBase + 0x00#32) 1) [] [] ∧
    (hostDoes (.load 4 0x1C#32 1)).HostTurn (.load 4 (defaultParams.regBase + 0x1C#32) 1) [] [] :=
  ⟨hostTurn _, hostTurn _⟩

/-- V-HOST-7 to V-HOST-9: two bytes, offset 0x02, offset 0x20; and the last offset of the space. -/
theorem witness_BadHostAccessIsRefused :
    (hostDoes (.load 2 0x04#32 1)).HostTurn (.load 2 (defaultParams.regBase + 0x04#32) 1) [] [] ∧
    ((hostDoes (.store 4 0x02#32 7#32)).HostTurn (.store 4 (defaultParams.regBase + 0x02#32) 7#32) [] [] ∧
      (0x02#32 : Word).toNat % 4 ≠ 0) ∧
    ((hostDoes (.load 4 0x20#32 1)).HostTurn (.load 4 (defaultParams.regBase + 0x20#32) 1) [] [] ∧
      0x1C < (0x20#32 : Word).toNat) ∧ 0x1C < (0xFFFFFFFC#32 : Word).toNat :=
  ⟨hostTurn _, ⟨hostTurn _, by decide⟩, ⟨hostTurn _, by decide⟩, by decide⟩

theorem witness_HostWritesOperandRegisters :
    (hostDoes (.store 4 0x04#32 7#32)).HostTurn (.store 4 (defaultParams.regBase + 0x04#32) 7#32) [] [] ∧
    (hostDoes (.store 4 0x1C#32 7#32)).HostTurn (.store 4 (defaultParams.regBase + 0x1C#32) 7#32) [] [] :=
  ⟨hostTurn _, hostTurn _⟩

theorem witness_HostLeavesARunningCommandAlone :
    ({ engineIn .aPush with turns := [.host], hostProg := [.store 4 0x04#32 7#32] } : State).NextTurn .host [] ∧
    busy (engineIn .aPush) = true ∧
    (after (step { engineIn .aPush with turns := [.host], hostProg := [.store 4 0x04#32 7#32] })).map
      (·.regs.txaddr) = some 7#32 :=
  ⟨scheduled _ ⟨rfl, rfl, rfl⟩ rfl, by decide, by decide⟩

/-- A host operation waiting while an engine runs. -/
def busyHost (op : HostOp) : State := { engineIn .aPush with turns := [.host], hostProg := [op] }

theorem busyHostTurn (op : HostOp) : (busyHost op).HostTurn op [] [] := ⟨scheduled _ ⟨rfl, rfl, rfl⟩ rfl, rfl⟩

theorem witness_AnyCommandWordWhileBusyFaults :
    (busyHost (.store 4 0#32 5#32)).HostTurn (.store 4 defaultParams.regBase 5#32) [] [] ∧
    busy (busyHost (.store 4 0#32 5#32)) = true := ⟨busyHostTurn _, by decide⟩

theorem witness_ReservedCommandIsRefused :
    (hostDoes (.store 4 0#32 5#32)).HostTurn (.store 4 defaultParams.regBase 5#32) [] [] ∧
    busy (hostDoes (.store 4 0#32 5#32)) = false ∧
    (5#32 : Word) ∉ [0x00000001#32, 0x00000002#32, 0x00000006#32, 0x0000000A#32, 0x0000000E#32] :=
  ⟨hostTurn _, by decide, by decide⟩

/-- An idle Width8 block whose receive queue holds a unit, and the most units Width8 allows, its mode about to change. -/
def heldUnits (rxq : List Unit16) : State :=
  { hostDoes (.configure true) with xcvr := { txq := [], sr := none, rxq := rxq } }

theorem witness_ModeChangeRules :
    ((busyHost (.configure true)).HostTurn (.configure true) [] [] ∧ busy (busyHost (.configure true)) = true) ∧
    ((hostDoes (.configure true)).HostTurn (.configure true) [] [] ∧ true ≠ (hostDoes (.configure true)).cfgMode16 ∧
      busy (hostDoes (.configure true)) = false ∧ (hostDoes (.configure true)).Quiescent) ∧
    (∀ q, (heldUnits q).HostTurn (.configure true) [] [] ∧ busy (heldUnits q) = false) ∧ (heldUnits eight).xcvr.rxq ≠ [] ∧
    (hostDoes (.configure false)).HostTurn (.configure false) [] [] ∧
    false = (hostDoes (.configure false)).cfgMode16 :=
  ⟨⟨busyHostTurn _, by decide⟩, ⟨hostTurn _, by decide, by decide, rfl, rfl, rfl⟩,
    fun _ => ⟨⟨scheduled _ ⟨rfl, rfl, rfl⟩ rfl, rfl⟩, rfl⟩, by decide, hostTurn _, rfl⟩

/-- Each way the transceiver may change: the engine of a command, a request of an idle one, LOAD, SHIFT, reset, and a
change of mode with a unit held; and the response of a poll. -/
theorem witness_OnlyTheEngineUsesTheTransceiver :
    (after (step (engineIn .sWaitTx))).map (·.xcvr.txq) = some [0#16] ∧
    (after (step (given 0x00A53#20))).map (fun t => (t.xcvr.txq, t.placed)) = some ([0xA5#16], none) ∧
    (after (step { holding [1#16] none [] with turns := [.load] })).map (·.xcvr.sr) = some (some 1#16) ∧
    (after (step { holding [1#16] none [] with turns := [.reset] })).map (·.xcvr.txq) = some [] ∧
    (after (step { holding [] (some 1#16) [] with turns := [.shift], peer := .loopback })).map (·.xcvr.sr) =
      some none ∧
    (after (step (engineHolding .waitTx eight []))).map (·.xifResp) = some 1#17 := by decide

/-- A machine with a host operation to do in Width16. -/
def hostDoes16 (op : HostOp) : State := { hostDoes op with cfgMode16 := true }

theorem hostTurn16 (op : HostOp) : (hostDoes16 op).HostTurn op [] [] := ⟨scheduled _ ⟨rfl, rfl, rfl⟩ rfl, rfl⟩

theorem witness_WrappersExpandInWidth8Only :
    (hostDoes16 (.exchange8bit 0xA5#8 1)).HostTurn (.exchange8bit 0xA5#8 1) [] [] ∧
    (hostDoes16 (.exchangeBuffer8bit none 4#32 none 1)).HostTurn (.exchangeBuffer8bit none 4#32 none 1) [] [] ∧
    (hostDoes (.exchange8bit 0xA5#8 1)).HostTurn (.exchange8bit 0xA5#8 1) [] [] ∧
    (hostDoes (.loadLow8 0x14#32 1)).HostTurn (.loadLow8 (defaultParams.regBase + 0x14#32) 1) [] [] ∧
    (∀ tx rx, (hostDoes (.exchangeBuffer8bit tx 4#32 rx 1)).HostTurn (.exchangeBuffer8bit tx 4#32 rx 1) [] [] ∧
      (hostDoes (.exchangeBuffer8bit tx 4#32 rx 1)).cfgMode16 = false) :=
  ⟨hostTurn16 _, hostTurn16 _, hostTurn _, hostTurn _, fun _ _ => ⟨hostTurn _, rfl⟩⟩

theorem witness_PseudoOperationsExpand :
    (hostDoes16 (.xchg1 0x1234#32 1)).HostTurn (.xchg1 0x1234#32 1) [] [] ∧
    (hostDoes (.xbufw 0x1000#32 4#32 0x2000#32 true true 1)).HostTurn
      (.xbufw 0x1000#32 4#32 0x2000#32 true true 1) [] [] := ⟨hostTurn16 _, hostTurn _⟩

theorem witness_WaitForDoneHolds :
    ((hostDoes (.wait 0x18#32 1 1 1#32)).HostTurn (.wait (defaultParams.regBase + 0x18#32) 1 1 1#32) [] [] ∧
      (hostDoes (.wait 0x18#32 1 1 1#32)).regs.done = false) ∧
    ({ hostDoes (.wait 0x18#32 1 1 1#32) with regs := { HostRegs.reset with done := true } } : State).HostTurn
      (.wait (defaultParams.regBase + 0x18#32) 1 1 1#32) [] [] :=
  ⟨⟨hostTurn _, rfl⟩, scheduled _ ⟨rfl, rfl, rfl⟩ rfl, rfl⟩

/-- A store of two bytes that wraps at the top of memory, one of none, and loads of 0 and 5 bytes. -/
theorem witness_HostAccessesToBufferMemory :
    ((hostDoes (.memStore 0xFFFFFFFF#32 [7#8, 8#8])).HostTurn (.memStore 0xFFFFFFFF#32 [7#8, 8#8]) [] [] ∧
      [7#8, 8#8][1]? = some 8#8 ∧ (0xFFFFFFFF#32 + BitVec.ofNat 32 1 : Word) = 0#32 ∧
      ∀ k < 2, (1#32 : Word) ≠ 0xFFFFFFFF#32 + BitVec.ofNat 32 k) ∧
    (hostDoes (.memStore 0#32 [])).HostTurn (.memStore 0#32 []) [] [] ∧
    ∀ n, (hostDoes (.memLoad 0x1000#32 n 1)).HostTurn (.memLoad 0x1000#32 n 1) [] [] :=
  ⟨⟨hostTurn _, by decide, by decide, by decide⟩, hostTurn _, fun _ => hostTurn _⟩

/-- R40, R36: bytes stored across the top of memory are loaded back little-endian. -/
theorem test_host_memory_wraps :
    (after (step (hostDoes (.memStore 0xFFFFFFFF#32 [7#8, 8#8])))).map
      (fun t => memLoadBytes t.mem 0xFFFFFFFF#32 2) = some 0x0807#32 := by decide

theorem witness_LoadMovesTheOldestUnit :
    (({ holding [1#16] none [] with turns := [.load] } : State).NextTurn .load [] ∧
      (holding [1#16] none []).xcvr.txq = 1#16 :: []) ∧
    (({ holding [1#16] (some 2#16) [] with turns := [.load] } : State).NextTurn .load [] ∧
      (holding [1#16] (some 2#16) []).xcvr.sr ≠ none) ∧
    ({ State.reset with turns := [.load] } : State).NextTurn .load [] ∧ State.reset.xcvr.txq = [] :=
  ⟨⟨scheduled _ ⟨rfl, rfl, rfl⟩ rfl, rfl⟩, ⟨scheduled _ ⟨rfl, rfl, rfl⟩ rfl, by decide⟩,
    scheduled _ ⟨rfl, rfl, rfl⟩ rfl, rfl⟩

theorem witness_ShiftExchangesOneUnit :
    (({ holding [] (some 1#16) eight with turns := [.shift] } : State).NextTurn .shift [] ∧
      (holding [] (some 1#16) eight).xcvr.rxq.length = rxDepth defaultParams .width8) ∧
    (({ holding [] (some 1#16) eight.tail with turns := [.shift] } : State).NextTurn .shift [] ∧
      (holding [] (some 1#16) eight.tail).xcvr.rxq.length ≠ rxDepth defaultParams .width8) ∧
    ({ State.reset with turns := [.shift] } : State).NextTurn .shift [] ∧ State.reset.xcvr.sr = none :=
  ⟨⟨scheduled _ ⟨rfl, rfl, rfl⟩ rfl, by decide⟩, ⟨scheduled _ ⟨rfl, rfl, rfl⟩ rfl, by decide⟩,
    scheduled _ ⟨rfl, rfl, rfl⟩ rfl, rfl⟩

theorem engineTurn_xchgAccepted : xchgAccepted.EngineTurn [.load, .shift, .engine] :=
  ⟨scheduled _ ⟨rfl, rfl, rfl⟩ rfl, rfl, by decide⟩

theorem witness_LoopbackKeepsOrder :
    xchgAccepted.Inv ∧ xchgAccepted.Running ∧ xchgAccepted.peer = .loopback ∧
    (after (step xchgAccepted)).map (·.cfgMode16) = some xchgAccepted.cfgMode16 :=
  ⟨inv_xchgAccepted, running _ ⟨rfl, rfl, rfl⟩, rfl, by decide⟩

theorem witness_UnitCountAndTruncation : ({ State.reset with cfgMode16 := true } : State).cfgMode16 = true ∧
    State.reset.cfgMode16 = false := ⟨rfl, rfl⟩

theorem witness_FaultingStepChangesOnlyTheRecord :
    (busyHost (.store 4 0#32 5#32)).Running ∧
    (after (step (busyHost (.store 4 0#32 5#32)))).map (·.faults) =
      some [{ code := .cmdWhileBusy, phase := .aPush, step := 0 }] := ⟨running _ ⟨rfl, rfl, rfl⟩, by decide⟩

/-- A machine that has stopped on a fault, and one that has stopped on a refusal. -/
theorem witness_NothingStepsAfterAStop :
    (∀ ts, (raiseFault .rxOverrun State.reset).turns ≠ .reset :: ts) ∧
    (raiseFault .rxOverrun State.reset).faults = { code := .rxOverrun, phase := .idle, step := 0 } :: [] ∧
    (∀ ts, (refuse .badConfig State.reset).turns ≠ .reset :: ts) ∧
    (refuse .badConfig State.reset).refused = some .badConfig ∧ (refuse .badConfig State.reset).faults = [] :=
  ⟨fun _ h => by simp [State.reset] at h, rfl, fun _ h => by simp [State.reset] at h, rfl, rfl⟩

/-- A machine with another in-flight cap. -/
def capped (n : Nat) : State := { State.reset with params := { defaultParams with fifoLimit := n } }

/-- V-EXC-4 and V-EXC-5: FIFO_LIMIT = 9 with depth 8, and FIFO_LIMIT = 0. -/
theorem witness_BadConfigurationIsRefused :
    ((capped 9).faults = [] ∧ (capped 9).refused = none ∧ (∀ ts, (capped 9).turns ≠ .reset :: ts) ∧
      ¬ (1 ≤ (capped 9).params.fifoLimit ∧ (capped 9).params.fifoLimit ≤ 255 ∧ ∀ m : Mode,
        (capped 9).params.fifoLimit ≤ txDepth (capped 9).params m ∧
        (capped 9).params.fifoLimit ≤ rxDepth (capped 9).params m)) ∧
    ¬ 1 ≤ (capped 0).params.fifoLimit :=
  ⟨⟨rfl, rfl, fun _ h => by simp [capped, State.reset] at h,
    fun h => by have := (h.2.2 .width8).1; simp [capped, txDepth, defaultParams] at this⟩, by decide⟩

theorem witness_ResetPutsEveryValue :
    ({ raiseFault .rxOverrun (engineIn .aPush) with turns := [.reset] } : State).turns = .reset :: [] := rfl

theorem witness_EveryStepKeepsTheInvariant : xchgAccepted.Inv ∧ ∃ t, step xchgAccepted = .next t :=
  ⟨inv_xchgAccepted, answers engineTurn_xchgAccepted⟩

theorem occInv_xchgAccepted : xchgAccepted.OccInv :=
  ⟨inv_xchgAccepted, rfl, rfl⟩

/-- R67, R68: in an engine held at a refused receive write the count is the occupancy and the one lost unit, and the step
that gets it there keeps both counts so. -/
theorem test_refused_occupancy :
    ((held []).eng.inflight.toNat, occupancy (held []).xcvr, lostUnits (held [])) = (3, 2, 1) ∧
    (after (step { held [.engine] with stuck := false, eng := { (held []).eng with inflight := 2#8 } })).map
      (fun t => (t.stuck, t.eng.inflight.toNat, occupancy t.xcvr, lostUnits t)) = some (true, 2, 1, 1) := by decide

/-! ### A fair run (R110) -/

/-- The run of `xchgAccepted`: its four turns, then the idle machine for ever. -/
def trace : Nat → State
  | 0 => xchgAccepted
  | n + 1 => (after (step (trace n))).getD State.reset

theorem trace_idle (n : Nat) : trace (n + 4) = trace 4 := by
  induction n with
  | zero => rfl
  | succ n ih => exact (congrArg (fun s => (after (step s)).getD State.reset) ih).trans rfl

theorem trace_isRun : IsRun trace
  | 0 => rfl
  | 1 => rfl
  | 2 => rfl
  | 3 => rfl
  | n + 4 => by rw [trace_idle n, show trace (n + 4 + 1) = trace 4 from trace_idle (n + 1)]; rfl

theorem trace_fair : WeaklyFair trace := by
  intro t _ n h
  have := h (n + 4) (by omega)
  rw [trace_idle] at this
  exact absurd this (by simp [show enabledTurns (trace 4) = [] from rfl])

theorem trace_noReset : NoReset trace
  | 0 => (by decide : nextTurn (trace 0) ≠ some .reset)
  | 1 => (by decide : nextTurn (trace 1) ≠ some .reset)
  | 2 => (by decide : nextTurn (trace 2) ≠ some .reset)
  | 3 => (by decide : nextTurn (trace 3) ≠ some .reset)
  | n + 4 => by rw [trace_idle n]; exact (by decide : nextTurn (trace 4) ≠ some .reset)

/-- A fair run that meets every hypothesis, and a state of the livelock of V-XCHG-4. -/
theorem witness_CommandsCompleteUnderFairness :
    (IsRun trace ∧ WeaklyFair trace ∧ NoReset trace ∧ (trace 0).OccInv ∧ (trace 0).Running ∧ busy (trace 0) = true ∧
      (trace 0).stuck = false ∧ AdmitsAll (trace 0).params) ∧
    ({ engineIn .sWaitRx with turns := List.replicate 3 .engine } : State).Running :=
  ⟨⟨trace_isRun, trace_fair, trace_noReset, occInv_xchgAccepted, running _ ⟨rfl, rfl, rfl⟩, by decide, rfl,
    fun _ _ _ => rfl⟩, running _ ⟨rfl, rfl, rfl⟩⟩

/-- Units listed fit a mode when each does. -/
theorem fits_of_all {m : Mode} {l : List Unit16} (h : l.all (fun u => decide (trunc m u = u)) = true) :
    ∀ u ∈ l, unitFits m u := fun u hu =>
  (of_decide_eq_true (List.all_eq_true.1 h u hu) : trunc m u = u)

/-- The held engine meets the occupancy invariant, its lost unit counted. -/
theorem occInv_held : (held []).OccInv :=
  ⟨⟨by decide, ⟨by decide, by decide, by decide, by decide, by decide, by decide, by decide⟩,
      ⟨by decide, by decide, fits_of_all (by decide)⟩,
      by decide, by decide, by decide⟩, rfl,
    (by decide : (held []).eng.inflight.toNat = occupancy (held []).xcvr + lostUnits (held []))⟩

/-- A push before which one unit is in flight, and the same engine held at a refused read. -/
def oneInFlight (stuck : Bool) : State :=
  { xbufIn .aPush 8#32 1#32 1#8 true true [1#16] [] with stuck := stuck }

theorem occInv_oneInFlight (stuck : Bool) : (oneInFlight stuck).OccInv := by
  cases stuck <;> exact
    ⟨⟨by decide, ⟨by decide, by decide, by decide, by decide, by decide, by decide, by decide⟩,
      ⟨by decide, by decide, fits_of_all (by decide)⟩, by decide, by decide, by decide⟩, rfl,
      (by decide : (1#8).toNat = 1)⟩

/-- A step of a command; and for each clause on STATUS.INFLIGHT a state: moving, held at a read, held at a write. -/
theorem witness_EveryStepKeepsTheOccupancy :
    (xchgAccepted.OccInv ∧ ∃ t, step xchgAccepted = .next t) ∧
    ((oneInFlight false).OccInv ∧ inXbuf (oneInFlight false).eng.phase = true ∧ (oneInFlight false).stuck = false) ∧
    ((oneInFlight true).OccInv ∧ (oneInFlight true).eng.phase = .aPush) ∧
    ((held []).OccInv ∧ inXbuf (held []).eng.phase = true ∧ (held []).stuck = true ∧ (held []).eng.phase ≠ .aPush) :=
  ⟨⟨occInv_xchgAccepted, answers engineTurn_xchgAccepted⟩, ⟨occInv_oneInFlight false, rfl, rfl⟩,
    ⟨occInv_oneInFlight true, rfl⟩, occInv_held, rfl, rfl, by decide⟩

/-- A running machine whose host writes CMD while it is busy: one of the three faults the host causes. -/
theorem witness_TransferNeverFaults :
    ({ xchgAccepted with turns := [.host], hostProg := [.store 4 0#32 1#32] } : State).OccInv ∧
    ({ xchgAccepted with turns := [.host], hostProg := [.store 4 0#32 1#32] } : State).Running ∧
    (after (step { xchgAccepted with turns := [.host], hostProg := [.store 4 0#32 1#32] })).map codes =
      some [.cmdWhileBusy] :=
  ⟨⟨⟨by decide, engineOk_xchgAccepted, inv_xchgAccepted.xcvr, inv_xchgAccepted.mode, inv_xchgAccepted.stuck, by decide⟩,
      rfl, rfl⟩,
    running _ ⟨rfl, rfl, rfl⟩, by decide⟩

/-- A SHIFT into a full receive side raises code 7, which the statement allows. -/
theorem witness_PopFaultsAreUnreachable :
    xchgAccepted.Inv ∧ xchgAccepted.Running ∧ (busy xchgAccepted = false → xchgAccepted.placed = none) ∧
    (∃ t, step xchgAccepted = .next t) ∧
    (after (step { holding [] (some 1#16) eight with turns := [.shift] })).map codes = some [.rxOverrun] :=
  ⟨inv_xchgAccepted, running _ ⟨rfl, rfl, rfl⟩, fun _ => rfl,
    answers engineTurn_xchgAccepted, by decide⟩

theorem witness_ConfigurationIsNeverWritten :
    (after (step (hostDoes (.configure true)))).map (·.cfgMode16) = some true ∧
    (hostDoes (.configure true)).cfgMode16 = false := by decide

theorem witness_RxdataChangesOnlyWhenAnXchgCompletes :
    (after (step (engineHolding .sWaitRx [] [0x5A#16]))).map (·.regs.rxdata) = some 0x5A#16 ∧
    (engineHolding .sWaitRx [] [0x5A#16]).regs.rxdata = 0#16 := by decide

/-- The schedule's turn; one agent that can move; and nobody: after reset, with received units in an idle block, and with an
engine held by a refused access. -/
theorem witness_NextTurnIsScheduledOrEnabled :
    (engineIn .aPop).turns = .engine :: [] ∧
    ((holding [1#16] none []).turns = [] ∧ enabledTurns (holding [1#16] none []) = [.load]) ∧
    (State.reset.Running ∧ State.reset.turns = [] ∧ enabledTurns State.reset = []) ∧
    ((holding [] none eight).Running ∧ enabledTurns (holding [] none eight) = []) ∧
    ({ engineIn .aPush with turns := [], stuck := true } : State).Running ∧
    enabledTurns { engineIn .aPush with turns := [], stuck := true } = [] :=
  ⟨rfl, ⟨rfl, by decide⟩, ⟨running _ ⟨rfl, rfl, rfl⟩, rfl, by decide⟩, ⟨running _ ⟨rfl, rfl, rfl⟩, by decide⟩,
    running _ ⟨rfl, rfl, rfl⟩, by decide⟩

end Sys2Proof.Tests
end

section
/-! PROOFS. The scope of the model (00_scope.md): parameters that fail R6 are refused, and no step writes the configuration
but the host's configuration action on an idle block (R5, R18, R57). -/

namespace Sys2Proof.Machine

/-! ### Parameters that fail R6 -/

/-- With nothing recorded and no reset scheduled, parameters that fail R6 are refused before any agent moves (R95). -/
theorem step_eq_refuse_badConfig {s : State} (hf : s.faults = []) (hr : s.refused = none)
    (ht : ∀ ts, s.turns ≠ .reset :: ts) (hp : paramsAdmitted s.params = false) :
    step s = .next (refuse .badConfig s) := by
  unfold step stepOnce
  split
  · next ts hts => exact absurd hts (ht ts)
  · next hf' _ => simp [hf] at hf'
  · next hr' _ => simp [hr] at hr'
  · simp [hp]

/-- Settles O51: the test written out for both modes is the one each step makes. -/
theorem badConfigurationIsRefused : Obligations.BadConfigurationIsRefused := by
  intro s hf hr ht hbad
  rw [← paramsAdmitted_iff, Bool.not_eq_true] at hbad
  exact step_eq_refuse_badConfig hf hr ht hbad

/-! ### Who may write the configuration -/

/-- `t` has the configuration of `s`: the parameters (R5) and `cfg_mode16` (R18). -/
structure SameConfig (s t : State) : Prop where
  params : t.params = s.params
  mode16 : t.cfgMode16 = s.cfgMode16

theorem popOne_sameConfig {after : Phase} {s t : State} (h : popOne after s = .ok t) : SameConfig s t := by
  obtain ⟨r, rest, -, ⟨-, -, rfl⟩ | ⟨-, -, rfl⟩ | ⟨-, rfl⟩⟩ := popOne_cases h <;> exact ⟨rfl, rfl⟩

theorem stepWaitTx_sameConfig (s : State) : SameConfig s (stepWaitTx s) := by
  obtain ⟨-, h⟩ | ⟨-, h⟩ := stepWaitTx_cases s <;> rw [h] <;> exact ⟨rfl, rfl⟩

theorem stepAPush_sameConfig {s t : State} (h : stepAPush s = .ok t) : SameConfig s t := by
  obtain ⟨-, rfl⟩ | ⟨-, ⟨-, rfl⟩ | ⟨-, ⟨-, rfl⟩ | ⟨-, u, -, rfl⟩⟩⟩ := stepAPush_cases h <;> exact ⟨rfl, rfl⟩

theorem stepAPop_sameConfig {s t : State} (h : stepAPop s = .ok t) : SameConfig s t := by
  obtain ⟨-, rfl⟩ | ⟨-, hpop⟩ := stepAPop_cases h
  · exact ⟨rfl, rfl⟩
  · exact popOne_sameConfig hpop

theorem stepBDrain_sameConfig {s t : State} (h : stepBDrain s = .ok t) : SameConfig s t := by
  obtain ⟨-, rfl⟩ | ⟨-, -, rfl⟩ | ⟨-, hpop⟩ := stepBDrain_cases h
  · exact ⟨rfl, rfl⟩
  · exact ⟨rfl, rfl⟩
  · exact popOne_sameConfig hpop

theorem stepSWaitTx_sameConfig {s t : State} (h : stepSWaitTx s = .ok t) : SameConfig s t := by
  obtain ⟨-, he⟩ | ⟨-, he⟩ := stepSWaitTx_cases s <;> cases he.symm.trans h <;> exact ⟨rfl, rfl⟩

theorem stepSWaitRx_sameConfig {s t : State} (h : stepSWaitRx s = .ok t) : SameConfig s t := by
  obtain ⟨-, he⟩ | ⟨r, rest, -, he⟩ := stepSWaitRx_cases s <;> cases he.symm.trans h <;> exact ⟨rfl, rfl⟩

/-- No phase of the engine writes the configuration. -/
theorem engineStep_sameConfig {s t : State} (h : engineStep s = .ok t) : SameConfig s t := by
  unfold engineStep at h
  split at h
  · cases h; exact ⟨rfl, rfl⟩
  · cases h; exact stepWaitTx_sameConfig s
  · exact stepAPush_sameConfig h
  · exact stepAPop_sameConfig h
  · exact stepBDrain_sameConfig h
  · exact stepSWaitTx_sameConfig h
  · exact stepSWaitRx_sameConfig h

/-- No request given to an idle engine writes the configuration. -/
theorem RequestEffect.sameConfig {s t : State} (h : RequestEffect s t) : SameConfig s t := by
  cases h <;> exact ⟨rfl, rfl⟩

/-- The one way to another `cfg_mode16` (R57): from `s`, the host's next operation sets the value `t` has, and the block is
idle. -/
structure Configures (s t : State) : Prop where
  params : t.params = s.params
  idle   : busy s = false
  next   : ∃ rest, s.hostProg = .configure t.cfgMode16 :: rest

/-- A turn of the host keeps the configuration or is a configuration action on an idle block. -/
theorem HostEffect.sameConfig_or_configures {s t : State} (h : HostEffect s t) : SameConfig s t ∨ Configures s t := by
  cases h with
  | mode ops b hp hb hidle => exact .inr ⟨rfl, hidle, ops, hp⟩
  | _ => exact .inl ⟨rfl, rfl⟩

/-- A turn keeps the configuration, or it is the host's and a configuration action on an idle block. -/
theorem TurnEffect.sameConfig_or_configures {s t : State} {tn : Turn} (h : TurnEffect s tn t) :
    SameConfig s t ∨ (tn = .host ∧ Configures s t) := by
  cases h with
  | host hhost => exact hhost.sameConfig_or_configures.imp_right fun hc => ⟨rfl, hc⟩
  | engine hb hk hstep => exact .inl (engineStep_sameConfig hstep)
  | request hb hp hreq =>
    have hsame := hreq.sameConfig
    exact .inl ⟨by simp [hsame.params], by simp [hsame.mode16]⟩
  | _ => exact .inl ⟨rfl, rfl⟩

/-- A step keeps the configuration, or it is a turn of the host and a configuration action on an idle block (R57). -/
theorem step_sameConfig_or_configures {s t : State} (h : step s = .next t) :
    SameConfig s t ∨ (nextTurn s = some .host ∧ Configures s t) := by
  obtain ⟨ts, -, rfl⟩ | ⟨-, -, -, rfl⟩ | ⟨-, -, rfl⟩ | ⟨-, tn, v, hturn, -, heff, rfl⟩ := step_cases h
  · exact .inl ⟨by simp, by simp⟩
  · exact .inl ⟨rfl, rfl⟩
  · exact .inl ⟨rfl, rfl⟩
  · obtain ⟨hparams, hmode⟩ | ⟨rfl, hparams, hidle, hprog⟩ := heff.sameConfig_or_configures
    · exact .inl ⟨by simpa using hparams, by simpa using hmode⟩
    · exact .inr ⟨hturn, by simpa using hparams, hidle, by simpa using hprog⟩

/-- Settles O58: a step that does not keep `cfg_mode16` is the host's configuration action, and the turn it takes is
scheduled or, with an empty schedule, chosen. -/
theorem configurationIsNeverWritten : Obligations.ConfigurationIsNeverWritten := by
  intro s t h
  obtain ⟨hparams, hmode⟩ | ⟨hturn, hparams, hidle, hprog⟩ := step_sameConfig_or_configures h
  · exact ⟨hparams, fun hne => absurd hmode hne⟩
  · exact ⟨hparams, fun _ => ⟨hidle, hprog, (nextTurn_cases hturn).symm.imp_left And.left⟩⟩

end Sys2Proof.Machine
end

section
/-! PROOFS. The state (10_state.md): the reset state meets both invariants, every step of any agent keeps each of them
(R22, R25, R26, R57, R72, R73, R80), RXDATA changes only when an XCHG completes (R15), and the fields of STATUS and of
the data registers (R14, R15, R16, R20). -/

namespace Sys2Proof.Machine

/-! ### What a step of a running engine can do -/

/-- What one phase visit of a running command can do, with the guards under which it does it (R60, R61, R64 to R70). -/
inductive EngineEffect (s : State) : State → Prop
  /-- A poll that has to be repeated. -/
  | wait (h : ((s.eng.phase = .waitTx ∨ s.eng.phase = .sWaitTx) ∧ txfull s = true) ∨
        (((s.eng.phase = .bDrain ∧ s.eng.inflight ≠ 0#8) ∨ s.eng.phase = .sWaitRx) ∧ s.xcvr.rxq = [])) :
      EngineEffect s { s with xifResp := respWord true 0#16 }
  /-- WAITTX has seen a slot. -/
  | slot (hph : s.eng.phase = .waitTx) (hf : txfull s = false) :
      EngineEffect s { s with xifResp := respWord false 0#16, eng := { s.eng with phase := .aPush } }
  /-- A_PUSH has sent every unit. -/
  | loopEnd (hph : s.eng.phase = .aPush) (hn : s.eng.sent = s.eng.count) :
      EngineEffect s { s with eng := { s.eng with phase := .bDrain } }
  /-- A_PUSH stands at the cap. -/
  | capped (hph : s.eng.phase = .aPush) (hn : s.eng.sent ≠ s.eng.count) (hl : s.params.fifoLimit ≤ s.eng.inflight.toNat) :
      EngineEffect s { s with eng := { s.eng with phase := .aPop } }
  /-- The read of A_PUSH is refused. -/
  | readRefused (hph : s.eng.phase = .aPush) (hn : s.eng.sent ≠ s.eng.count)
      (hl : s.eng.inflight.toNat < s.params.fifoLimit) (hu : txUnit s = none) : EngineEffect s { s with stuck := true }
  /-- A_PUSH sends a unit. -/
  | push (u : Unit16) (hph : s.eng.phase = .aPush) (hn : s.eng.sent ≠ s.eng.count)
      (hl : s.eng.inflight.toNat < s.params.fifoLimit) (hu : txUnit s = some u) (hf : txfull s = false) :
      EngineEffect s { s with
        xcvr := { s.xcvr with txq := s.xcvr.txq ++ [trunc (currentMode s) u] }, xifResp := respWord false 0#16,
        eng := { s.eng with txptr := txptrAfterPush s.eng, sent := s.eng.sent + 1#32,
                            inflight := s.eng.inflight + 1#8, phase := .aPop } }
  /-- A_POP finds nothing received. -/
  | noPop (hph : s.eng.phase = .aPop) (hq : s.xcvr.rxq = []) :
      EngineEffect s { s with xifResp := respWord true 0#16, eng := { s.eng with phase := .aPush } }
  /-- The write of a popped unit is refused. -/
  | writeRefused (r : Unit16) (rest : List Unit16) (hph : s.eng.phase = .aPop ∨ s.eng.phase = .bDrain)
      (hi : s.eng.inflight ≠ 0#8) (hq : s.xcvr.rxq = r :: rest) (hp : s.eng.rxp = true)
      (ha : memAdmit s.params s.eng.rxptr s.eng.size .write = false) :
      EngineEffect s { s with
        xcvr := { s.xcvr with rxq := rest }, xifResp := respWord false r, stuck := true }
  /-- A popped unit is stored. -/
  | popStored (after : Phase) (r : Unit16) (rest : List Unit16)
      (hph : (s.eng.phase = .aPop ∧ after = .aPush) ∨ (s.eng.phase = .bDrain ∧ after = .bDrain))
      (hi : s.eng.inflight ≠ 0#8) (hq : s.xcvr.rxq = r :: rest) (hp : s.eng.rxp = true)
      (ha : memAdmit s.params s.eng.rxptr s.eng.size .write = true) :
      EngineEffect s { s with
        xcvr := { s.xcvr with rxq := rest }, xifResp := respWord false r,
        mem := memWrite s.mem s.eng.rxptr (trunc s.eng.m r) s.eng.size,
        eng := { s.eng with rxptr := nextUnit s.eng.rxptr s.eng.size, inflight := s.eng.inflight - 1#8,
                            phase := after } }
  /-- A popped unit is discarded. -/
  | popDiscarded (after : Phase) (r : Unit16) (rest : List Unit16)
      (hph : (s.eng.phase = .aPop ∧ after = .aPush) ∨ (s.eng.phase = .bDrain ∧ after = .bDrain))
      (hi : s.eng.inflight ≠ 0#8) (hq : s.xcvr.rxq = r :: rest) (hp : s.eng.rxp = false) :
      EngineEffect s { s with
        xcvr := { s.xcvr with rxq := rest }, xifResp := respWord false r,
        eng := { s.eng with inflight := s.eng.inflight - 1#8, phase := after } }
  /-- B_DRAIN has received every unit. -/
  | drained (hph : s.eng.phase = .bDrain) (hi : s.eng.inflight = 0#8) : EngineEffect s s.complete
  /-- S_WAITTX sends the unit of an XCHG. -/
  | xchgPush (hph : s.eng.phase = .sWaitTx) (hf : txfull s = false) :
      EngineEffect s { s with
        xcvr := { s.xcvr with txq := s.xcvr.txq ++ [trunc (currentMode s) (trunc s.eng.m s.eng.txunit)] },
        xifResp := respWord false 0#16, eng := { s.eng with phase := .sWaitRx } }
  /-- S_WAITRX receives it. -/
  | xchgDone (r : Unit16) (rest : List Unit16) (hph : s.eng.phase = .sWaitRx) (hq : s.xcvr.rxq = r :: rest) :
      EngineEffect s { s with
        xcvr := { s.xcvr with rxq := rest }, xifResp := respWord false r,
        regs := { s.regs with rxdata := trunc s.eng.m r, done := true }, eng := { s.eng with phase := .idle } }

/-- A pop of A_POP or B_DRAIN. -/
theorem popOne_effect {after : Phase} {s t : State} (h : popOne after s = .ok t) (hi : s.eng.inflight ≠ 0#8)
    (hph : (s.eng.phase = .aPop ∧ after = .aPush) ∨ (s.eng.phase = .bDrain ∧ after = .bDrain)) : EngineEffect s t := by
  obtain ⟨r, rest, hq, ⟨hp, ha, rfl⟩ | ⟨hp, ha, rfl⟩ | ⟨hp, rfl⟩⟩ := popOne_cases h
  · exact .writeRefused r rest (hph.imp And.left And.left) hi hq hp ha
  · exact .popStored after r rest hph hi hq hp ha
  · exact .popDiscarded after r rest hph hi hq hp

/-- A step of a running engine does one of the things its phase can do. -/
theorem engineStep_effect {s t : State} (hb : busy s = true) (h : engineStep s = .ok t) : EngineEffect s t := by
  unfold engineStep at h
  split at h
  · next hph => exact absurd hph (busy_eq_true.1 hb)
  · next hph =>
    cases h
    obtain ⟨hf, he⟩ | ⟨hf, he⟩ := stepWaitTx_cases s <;> rw [he]
    · exact .wait (.inl ⟨.inl hph, hf⟩)
    · exact .slot hph hf
  · next hph =>
    obtain ⟨hn, rfl⟩ | ⟨hn, ⟨hl, rfl⟩ | ⟨hl, ⟨hu, rfl⟩ | ⟨hf, u, hu, rfl⟩⟩⟩ := stepAPush_cases h
    · exact .loopEnd hph hn
    · exact .capped hph hn hl
    · exact .readRefused hph hn hl hu
    · exact .push u hph hn hl hu hf
  · next hph =>
    obtain ⟨hq, rfl⟩ | ⟨hi, hpop⟩ := stepAPop_cases h
    · exact .noPop hph hq
    · exact popOne_effect hpop hi (.inl ⟨hph, rfl⟩)
  · next hph =>
    obtain ⟨hi, rfl⟩ | ⟨hi, hq, rfl⟩ | ⟨hi, hpop⟩ := stepBDrain_cases h
    · exact .drained hph hi
    · exact .wait (.inr ⟨.inl ⟨hph, hi⟩, hq⟩)
    · exact popOne_effect hpop hi (.inr ⟨hph, rfl⟩)
  · next hph =>
    obtain ⟨hf, he⟩ | ⟨hf, he⟩ := stepSWaitTx_cases s <;> cases he.symm.trans h
    · exact .wait (.inl ⟨.inr hph, hf⟩)
    · exact .xchgPush hph hf
  · next hph =>
    obtain ⟨hq, he⟩ | ⟨r, rest, hq, he⟩ := stepSWaitRx_cases s <;> cases he.symm.trans h
    · exact .wait (.inr ⟨.inr hph, hq⟩)
    · exact .xchgDone r rest hph hq

/-- What no step of a running engine writes. -/
structure EngineFrame (s t : State) : Prop where
  params  : t.params = s.params
  mode16  : t.cfgMode16 = s.cfgMode16
  mode    : t.eng.m = s.eng.m
  faults  : t.faults = s.faults
  refused : t.refused = s.refused
  placed  : t.placed = s.placed

theorem EngineEffect.frame {s t : State} (h : EngineEffect s t) : EngineFrame s t := by
  cases h <;> exact ⟨rfl, rfl, rfl, rfl, rfl, rfl⟩

/-! ### The transceiver's bounds and widths (R25, R80) -/

theorem mem_pipeline {x : Transceiver} {u : Unit16} :
    u ∈ pipeline x ↔ u ∈ x.rxq ∨ x.sr = some u ∨ u ∈ x.txq := by
  simp [pipeline, srUnits]

theorem trunc_fits (m : Mode) (u : Unit16) : unitFits m (trunc m u) := trunc_trunc m u

namespace XcvrOk

variable {m : Mode} {p : Params} {x : Transceiver} {u : Unit16} {rest : List Unit16}

theorem reset (m : Mode) (p : Params) : XcvrOk m p Transceiver.reset :=
  ⟨Nat.zero_le _, Nat.zero_le _, fun u hu => by simp [mem_pipeline, Transceiver.reset] at hu⟩

/-- A WRITE_UNIT with the transmit side not full (R83). -/
theorem push (h : XcvrOk m p x) (hf : x.txq.length ≠ txDepth p m) (d : Unit16) :
    XcvrOk m p { x with txq := x.txq ++ [trunc m d] } where
  txBound := by simpa using Nat.lt_of_le_of_ne h.txBound hf
  rxBound := h.rxBound
  fits u hu := by
    simp only [mem_pipeline, List.mem_append, List.mem_singleton] at hu
    obtain hu | hu | hu | rfl := hu
    · exact h.fits u (mem_pipeline.2 (.inl hu))
    · exact h.fits u (mem_pipeline.2 (.inr (.inl hu)))
    · exact h.fits u (mem_pipeline.2 (.inr (.inr hu)))
    · exact trunc_fits m d

/-- A READ_UNIT (R84). -/
theorem pop (h : XcvrOk m p x) (hq : x.rxq = u :: rest) : XcvrOk m p { x with rxq := rest } where
  txBound := h.txBound
  rxBound := by have := h.rxBound; simp [hq] at this; exact Nat.le_of_lt this
  fits v hv := h.fits v <| mem_pipeline.2 <| (mem_pipeline.1 hv).imp_left fun hm => by simp [hq, hm]

/-- LOAD (R85). -/
theorem load (h : XcvrOk m p x) (hq : x.txq = u :: rest) : XcvrOk m p { x with txq := rest, sr := some u } where
  txBound := by have := h.txBound; simp [hq] at this; exact Nat.le_of_lt this
  rxBound := h.rxBound
  fits v hv := by
    obtain hv | hv | hv := mem_pipeline.1 hv
    · exact h.fits v (mem_pipeline.2 (.inl hv))
    · exact h.fits v (mem_pipeline.2 (.inr (.inr (by simp [hq, Option.some.inj hv]))))
    · exact h.fits v (mem_pipeline.2 (.inr (.inr (by simp [hq, show v ∈ rest from hv]))))

/-- SHIFT with the receive side not full (R86). -/
theorem shift (h : XcvrOk m p x) (hf : x.rxq.length ≠ rxDepth p m) (d : Unit16) :
    XcvrOk m p { x with sr := none, rxq := x.rxq ++ [trunc m d] } where
  txBound := h.txBound
  rxBound := by simpa using Nat.lt_of_le_of_ne h.rxBound hf
  fits u hu := by
    simp only [mem_pipeline, List.mem_append, List.mem_singleton, reduceCtorEq, false_or] at hu
    obtain (hu | rfl) | hu := hu
    · exact h.fits u (mem_pipeline.2 (.inl hu))
    · exact trunc_fits m d
    · exact h.fits u (mem_pipeline.2 (.inr (.inr hu)))

end XcvrOk

/-- The units held across a change of mode meet the bounds and the width of the new one (log entry 8). -/
theorem refit_xcvrOk (s : State) : XcvrOk (currentMode s) s.params (refit s).xcvr where
  txBound := length_refitQueue_le ..
  rxBound := length_refitQueue_le ..
  fits u hu := by
    obtain hu | hu | hu := mem_pipeline.1 hu
    · exact refitQueue_fits hu
    · obtain ⟨v, -, rfl⟩ := Option.map_eq_some_iff.1 hu
      exact refitUnit_fits ..
    · exact refitQueue_fits hu

theorem txfull_eq_false {s : State} : txfull s = false ↔ s.xcvr.txq.length ≠ txDepth s.params (currentMode s) := by
  simp [txfull]

theorem rxfull_eq_false {s : State} : rxfull s = false ↔ s.xcvr.rxq.length ≠ rxDepth s.params (currentMode s) := by
  simp [rxfull]

/-- An engine step keeps the bounds of the queues and the width of the units. -/
theorem EngineEffect.xcvrOk {s t : State} (h : EngineEffect s t) (hx : XcvrOk (currentMode s) s.params s.xcvr) :
    XcvrOk (currentMode s) s.params t.xcvr := by
  cases h with
  | push u hph hn hl hu hf => exact hx.push (txfull_eq_false.1 hf) u
  | xchgPush hph hf => exact hx.push (txfull_eq_false.1 hf) _
  | writeRefused r rest hph hi hq => exact hx.pop hq
  | popStored after r rest hph hi hq => exact hx.pop hq
  | popDiscarded after r rest hph hi hq => exact hx.pop hq
  | xchgDone r rest hph hq => exact hx.pop hq
  | _ => exact hx

/-! ### The engine's fields (R20, R22, R57, R58, R67, R72) -/

namespace EngineOk

variable {p : Params} {e : Engine}

theorem reset (p : Params) : EngineOk p Engine.reset :=
  ⟨Nat.zero_le _, Nat.le_refl _, rfl, nofun, nofun, nofun, nofun⟩

/-- Completion (R21). -/
theorem idle (h : EngineOk p e) : EngineOk p { e with phase := .idle } :=
  ⟨h.cap, h.bound, h.size, nofun, nofun, nofun, nofun⟩

/-- A change of phase within a buffered exchange. -/
theorem enter (h : EngineOk p e) {ph : Phase} (hx : inXbuf e.phase = true) (hph : inXbuf ph = true)
    (hpop : ph = .aPop → e.inflight ≠ 0#8) (hsent : ph = .bDrain → e.sent = e.count) :
    EngineOk p { e with phase := ph } where
  cap := h.cap
  bound := h.bound
  size := h.size
  xbufOp _ := h.xbufOp hx
  xchgOp := by rintro (rfl | rfl) <;> cases hph
  popOwed := hpop
  allSent := hsent

/-- A push below the cap (R65): the count stays within the cap and above 0, and no unit beyond the last is sent. -/
theorem push (h : EngineOk p e) (hlim : p.fifoLimit ≤ 255) (hx : inXbuf e.phase = true) (hn : e.sent ≠ e.count)
    (hl : e.inflight.toNat < p.fifoLimit) (a : Word) :
    EngineOk p { e with txptr := a, sent := e.sent + 1#32, inflight := e.inflight + 1#8, phase := .aPop } where
  cap := by have : (e.inflight + 1#8).toNat = e.inflight.toNat + 1 := by bv_omega
            simpa [this] using hl
  bound := by have := h.bound; simp only; bv_omega
  size := h.size
  xbufOp _ := h.xbufOp hx
  xchgOp := nofun
  popOwed _ := by simp only; bv_omega
  allSent := nofun

/-- A pop with units in flight (R67, R70). -/
theorem pop (h : EngineOk p e) {after : Phase} (hi : e.inflight ≠ 0#8)
    (hph : (e.phase = .aPop ∧ after = .aPush) ∨ (e.phase = .bDrain ∧ after = .bDrain)) (a : Word) :
    EngineOk p { e with rxptr := a, inflight := e.inflight - 1#8, phase := after } where
  cap := by have := h.cap; simp only; bv_omega
  bound := h.bound
  size := h.size
  xbufOp _ := h.xbufOp (by obtain ⟨hp, -⟩ | ⟨hp, -⟩ := hph <;> simp [hp, inXbuf])
  xchgOp := by obtain ⟨-, rfl⟩ | ⟨-, rfl⟩ := hph <;> exact nofun
  popOwed := by obtain ⟨-, rfl⟩ | ⟨-, rfl⟩ := hph <;> exact nofun
  allSent hd := by
    obtain ⟨-, rfl⟩ | ⟨hp, -⟩ := hph
    · cases hd
    · exact h.allSent hp

end EngineOk

/-- An engine step under admitted parameters keeps the engine's fields fitting together. -/
theorem EngineEffect.engineOk {s t : State} (h : EngineEffect s t) (he : EngineOk s.params s.eng)
    (hp : paramsAdmitted s.params = true) : EngineOk s.params t.eng := by
  obtain ⟨hpos, hlim, -⟩ := (paramsAdmitted_iff _).1 hp
  cases h with
  | slot hph => exact he.enter (by simp [hph, inXbuf]) rfl nofun nofun
  | loopEnd hph hn => exact he.enter (by simp [hph, inXbuf]) rfl nofun fun _ => hn
  | capped hph hn hl =>
    have hi : s.eng.inflight ≠ 0#8 := by bv_omega
    exact he.enter (by simp [hph, inXbuf]) rfl (fun _ => hi) nofun
  | push u hph hn hl => exact he.push hlim (by simp [hph, inXbuf]) hn hl _
  | noPop hph => exact he.enter (by simp [hph, inXbuf]) rfl nofun nofun
  | popStored after r rest hph hi => exact he.pop hi hph _
  | popDiscarded after r rest hph hi => exact he.pop hi hph s.eng.rxptr
  | drained => exact he.idle
  | xchgPush hph => exact ⟨he.cap, he.bound, he.size, nofun, fun _ => he.xchgOp (.inl hph), nofun, nofun⟩
  | xchgDone => exact he.idle
  | wait => exact he
  | readRefused => exact he
  | writeRefused => exact he

/-! ### The invariant of the machine, agent by agent -/

/-- Only a receive sink and a transmit source can get an engine stuck (R32, R66, R68). -/
theorem EngineEffect.inTransfer_of_stuck {s t : State} (h : EngineEffect s t) (hk : s.stuck = false)
    (ht : t.stuck = true) : inTransfer t.eng.phase = true := by
  cases h with
  | readRefused hph => simp [hph, inTransfer]
  | writeRefused r rest hph => obtain hph | hph := hph <;> simp [hph, inTransfer]
  | _ => exact absurd ht (by simp [hk])

/-- An engine step keeps the canonical form of buffer memory. -/
theorem EngineEffect.memWf {s t : State} (h : EngineEffect s t) (hm : memWf s.mem = true) : memWf t.mem = true := by
  cases h with
  | popStored => exact memWf_memWrite _ _ _ hm
  | _ => exact hm

/-- A step of a running engine keeps the invariant. -/
theorem EngineEffect.inv {s t : State} (h : EngineEffect s t) (hs : s.Inv) (hp : paramsAdmitted s.params = true)
    (hb : busy s = true) (hk : s.stuck = false) : t.Inv where
  mem := h.memWf hs.mem
  engine := by rw [h.frame.params]; exact h.engineOk hs.engine hp
  xcvr := by rw [h.frame.params, currentMode_congr h.frame.mode16]; exact h.xcvrOk hs.xcvr
  mode _ := by rw [h.frame.mode, currentMode_congr h.frame.mode16, hs.mode hb]
  stuck := h.inTransfer_of_stuck hk
  oneStop := by rw [h.frame.faults, h.frame.refused]; exact hs.oneStop

namespace State.Inv

variable {s : State}

/-- No refused access holds an idle engine. -/
theorem not_stuck (h : s.Inv) (hb : busy s = false) : s.stuck = false := by
  by_contra hk
  simpa [busy_eq_false.1 hb, inTransfer] using h.stuck (by simpa using hk)

/-- A fault raised where nothing has stopped is the only stop (R94, R97). -/
theorem raiseFault (h : s.Inv) (hf : s.faults = []) (hr : s.refused = none) (c : Fault) : (raiseFault c s).Inv :=
  ⟨h.mem, h.engine, h.xcvr, h.mode, h.stuck, by simp [hf, hr, addFault]⟩

/-- A refusal where nothing has stopped is the only stop (R95, R97). -/
theorem refuse (h : s.Inv) (hf : s.faults = []) (r : Refusal) : (refuse r s).Inv :=
  ⟨h.mem, h.engine, h.xcvr, h.mode, h.stuck, by simp [hf]⟩

theorem setProg (h : s.Inv) (ops : List HostOp) : (s.setProg ops).Inv :=
  ⟨h.mem, h.engine, h.xcvr, h.mode, h.stuck, h.oneStop⟩

theorem setTurns (h : s.Inv) (ts : List Turn) : (s.setTurns ts).Inv :=
  ⟨h.mem, h.engine, h.xcvr, h.mode, h.stuck, h.oneStop⟩

theorem popPlaced (h : s.Inv) : s.popPlaced.Inv := by
  unfold State.popPlaced
  split
  · exact h
  · exact ⟨h.mem, h.engine, h.xcvr, h.mode, h.stuck, h.oneStop⟩

theorem tick (h : s.Inv) : s.tick.Inv := by
  unfold State.tick
  split
  · exact h
  · exact ⟨h.mem, h.engine, h.xcvr, h.mode, h.stuck, h.oneStop⟩

end State.Inv

/-- A reset establishes the invariant from any state with canonical memory (R106). -/
theorem resetBlock_inv {s : State} (h : memWf s.mem = true) : (resetBlock s).Inv :=
  ⟨h, .reset _, .reset _ _, nofun, nofun, Nat.zero_le _⟩

/-- A turn of the host in a machine where nothing has stopped keeps the invariant. -/
theorem HostEffect.inv {s t : State} (h : HostEffect s t) (hs : s.Inv) (hf : s.faults = []) (hr : s.refused = none) :
    t.Inv := by
  have free (hb : busy s = false) : ¬ s.stuck = true := by simp [hs.not_stuck hb]
  cases h with
  | fault ops c hc => exact (hs.setProg ops).raiseFault hf hr c
  | refusal ops r => exact (hs.setProg ops).refuse hf r
  | plain ops vars regs m hregs hm => exact ⟨hm hs.mem, hs.engine, hs.xcvr, hs.mode, hs.stuck, hs.oneStop⟩
  | xchg ops hb =>
    have he := hs.engine
    exact ⟨hs.mem, ⟨he.cap, he.bound, rfl, nofun, fun _ => rfl, nofun, nofun⟩, hs.xcvr, fun _ => rfl,
      fun hk => absurd hk (free hb), hs.oneStop⟩
  | xbufEmpty ops txp rxp hb hn =>
    exact ⟨hs.mem, ⟨Nat.zero_le _, Nat.zero_le _, rfl, nofun, nofun, nofun, nofun⟩, hs.xcvr, nofun,
      fun hk => absurd hk (free hb), hs.oneStop⟩
  | xbuf ops txp rxp hb hn ha =>
    exact ⟨hs.mem, ⟨Nat.zero_le _, Nat.zero_le _, rfl, fun _ => rfl, nofun, nofun, nofun⟩, hs.xcvr, fun _ => rfl,
      fun hk => absurd hk (free hb), hs.oneStop⟩
  | mode ops b hp hne hb =>
    exact ⟨hs.mem, hs.engine, refit_xcvrOk { s with cfgMode16 := b },
      fun hb' => absurd (hb.symm.trans hb') nofun, hs.stuck, hs.oneStop⟩

/-- A request given to an idle engine keeps the invariant. -/
theorem RequestEffect.inv {s t : State} (h : RequestEffect s t) (hs : s.Inv) (hf : s.faults = [])
    (hr : s.refused = .none) : t.Inv := by
  cases h with
  | none => exact hs
  | refusal => exact hs.refuse hf _
  | poll r => exact ⟨hs.mem, hs.engine, hs.xcvr, hs.mode, hs.stuck, hs.oneStop⟩
  | write d hfull => exact ⟨hs.mem, hs.engine, hs.xcvr.push (txfull_eq_false.1 hfull) d, hs.mode, hs.stuck, hs.oneStop⟩
  | writeFault => exact hs.raiseFault hf hr _
  | read r rest hq => exact ⟨hs.mem, hs.engine, hs.xcvr.pop hq, hs.mode, hs.stuck, hs.oneStop⟩
  | readFault => exact hs.raiseFault hf hr _

/-- A turn of any agent of a running machine keeps the invariant. -/
theorem TurnEffect.inv {s t : State} {tn : Turn} (h : TurnEffect s tn t) (hs : s.Inv) (hrun : s.Running) : t.Inv := by
  obtain ⟨hf, hr, hp⟩ := hrun
  cases h with
  | pass => exact hs
  | host hhost => exact hhost.inv hs hf hr
  | engine hb hk hstep => exact (engineStep_effect hb hstep).inv hs hp hb hk
  | engineFault => exact hs.raiseFault hf hr _
  | load u rest hsr hq => exact ⟨hs.mem, hs.engine, hs.xcvr.load hq, hs.mode, hs.stuck, hs.oneStop⟩
  | shift u hsr hfull =>
    exact ⟨hs.mem, hs.engine, hs.xcvr.shift (rxfull_eq_false.1 hfull) _, hs.mode, hs.stuck, hs.oneStop⟩
  | shiftFault => exact hs.raiseFault hf hr _
  | reset => exact resetBlock_inv hs.mem
  | request hb hplaced hreq => exact (hreq.inv hs hf hr).popPlaced

/-- Settles O54: a reset establishes the invariant, and what else a step can do keeps it, agent by agent. -/
theorem everyStepKeepsTheInvariant : Obligations.EveryStepKeepsTheInvariant := by
  intro s t hs h
  obtain ⟨ts, -, rfl⟩ | ⟨hf, -, -, rfl⟩ | ⟨-, -, rfl⟩ | ⟨hrun, tn, v, -, -, heff, rfl⟩ := step_cases h
  · exact (resetBlock_inv (hs.setTurns ts).mem).tick
  · exact hs.refuse hf _
  · exact hs
  · exact (heff.inv (hs.setTurns _) hrun).tick

/-! ### The occupancy (R26, R73, R108) -/

section Occupancy

variable {x : Transceiver} {u : Unit16} {rest : List Unit16}

theorem occupancy_push (x : Transceiver) (u : Unit16) :
    occupancy { x with txq := x.txq ++ [u] } = occupancy x + 1 := by
  simp [occupancy, srUnits]; omega

theorem occupancy_pop (hq : x.rxq = u :: rest) : occupancy { x with rxq := rest } + 1 = occupancy x := by
  simp [occupancy, srUnits, hq]; omega

theorem occupancy_load (hs : x.sr = none) (hq : x.txq = u :: rest) :
    occupancy { x with txq := rest, sr := some u } = occupancy x := by
  simp [occupancy, srUnits, hs, hq]

theorem occupancy_shift (hs : x.sr = some u) (d : Unit16) :
    occupancy { x with sr := none, rxq := x.rxq ++ [d] } = occupancy x := by
  simp [occupancy, srUnits, hs]; omega

theorem occupancy_eq_zero : occupancy x = 0 ↔ x = Transceiver.reset := by
  cases x with | mk txq sr rxq => cases sr <;> simp [occupancy, srUnits, Transceiver.reset]

end Occupancy

/-- A change of mode leaves an empty transceiver empty (R108). -/
theorem refit_xcvr_of_reset {s : State} (h : s.xcvr = Transceiver.reset) : (refit s).xcvr = Transceiver.reset := by
  simp [refit, h, Transceiver.reset, refitQueue, refitUnits]

theorem occupancyDue_iff_of_idle {e : Engine} {n : Nat} (h : e.phase = .idle) : occupancyDue e n ↔ n = 0 := by
  simp [occupancyDue, h]

theorem occupancyDue_iff_of_inXbuf {e : Engine} {n : Nat} (h : inXbuf e.phase = true) :
    occupancyDue e n ↔ e.inflight.toNat = n := by
  unfold occupancyDue
  split <;> simp_all [inXbuf]

/-- What `State.OccInv` asks beside `State.Inv`: only the commands' steps use the transceiver (R90), and it holds the units
that are due (R73, R108). -/
structure Accounted (s : State) : Prop where
  only : s.placed = none
  due  : occupancyDue s.eng (occupancy s.xcvr + lostUnits s)

theorem State.OccInv.accounted {s : State} (h : s.OccInv) : Accounted s := ⟨h.only, h.due⟩

theorem State.Inv.occInv {s : State} (h : s.Inv) (ha : Accounted s) : s.OccInv := ⟨h, ha.only, ha.due⟩

/-- The account reads the engine, the number of units, and the marks `stuck` and `placed`. -/
theorem Accounted.congr {s t : State} (h : Accounted s) (he : t.eng = s.eng)
    (hx : occupancy t.xcvr = occupancy s.xcvr) (hk : t.stuck = s.stuck) (hp : t.placed = s.placed) : Accounted t :=
  ⟨hp.trans h.only, by rw [he, hx, lostUnits_congr he hk]; exact h.due⟩

/-- Under an idle engine the transceiver is empty (R108). -/
theorem Accounted.empty {s : State} (h : Accounted s) (hi : s.eng.phase = .idle) : s.xcvr = Transceiver.reset := by
  have hdue := (occupancyDue_iff_of_idle hi).1 h.due
  exact occupancy_eq_zero.1 (Nat.eq_zero_of_add_eq_zero_right hdue)

/-- An idle engine is accounted for with an empty transceiver. -/
theorem Accounted.of_empty {s : State} (hi : s.eng.phase = .idle) (hp : s.placed = none)
    (hx : s.xcvr = Transceiver.reset) : Accounted s :=
  ⟨hp, by rw [occupancyDue_iff_of_idle hi, occupancy_eq_zero.2 hx]; simp [lostUnits, hi]⟩

/-- The account of a buffered exchange that no refused access holds: the in-flight count is the occupancy (R73). -/
theorem due_of_count {s : State} (hx : inXbuf s.eng.phase = true) (hk : s.stuck = false)
    (hc : s.eng.inflight.toNat = occupancy s.xcvr) : occupancyDue s.eng (occupancy s.xcvr + lostUnits s) := by
  rwa [occupancyDue_iff_of_inXbuf hx, lostUnits_eq_zero hk, Nat.add_zero]

/-- One unit out of the receive queue and one off the count. -/
theorem count_pop {i : BitVec 8} {x : Transceiver} {r : Unit16} {rest : List Unit16} (hc : i.toNat = occupancy x)
    (hq : x.rxq = r :: rest) : (i - 1#8).toNat = occupancy { x with rxq := rest } := by
  have := occupancy_pop hq
  bv_omega

/-- A step of a running engine keeps the account: it pushes a unit and counts it, or pops one and counts it out or, its
write refused, loses it. -/
theorem EngineEffect.due {s t : State} (h : EngineEffect s t) (hlim : s.params.fifoLimit ≤ 255)
    (hk : s.stuck = false) (hd : occupancyDue s.eng (occupancy s.xcvr)) :
    occupancyDue t.eng (occupancy t.xcvr + lostUnits t) := by
  have count (hx : inXbuf s.eng.phase = true) : s.eng.inflight.toNat = occupancy s.xcvr :=
    (occupancyDue_iff_of_inXbuf hx).1 hd
  cases h with
  | wait => simpa [lostUnits, hk] using hd
  | slot hph => exact due_of_count rfl hk (count (by simp [hph, inXbuf]))
  | loopEnd hph => exact due_of_count rfl hk (count (by simp [hph, inXbuf]))
  | capped hph => exact due_of_count rfl hk (count (by simp [hph, inXbuf]))
  | noPop hph => exact due_of_count rfl hk (count (by simp [hph, inXbuf]))
  | readRefused hph => simpa [lostUnits, hph] using hd
  | push u hph hn hl =>
    have hc := count (by simp [hph, inXbuf])
    refine due_of_count rfl hk ?_
    rw [occupancy_push, ← hc]
    bv_omega
  | writeRefused r rest hph hi hq =>
    simpa [lostUnits, hph, occupancy_pop hq] using hd
  | popStored after r rest hph hi hq =>
    obtain ⟨hph, rfl⟩ | ⟨hph, rfl⟩ := hph <;>
      exact due_of_count rfl hk (count_pop (count (by simp [hph, inXbuf])) hq)
  | popDiscarded after r rest hph hi hq =>
    obtain ⟨hph, rfl⟩ | ⟨hph, rfl⟩ := hph <;>
      exact due_of_count rfl hk (count_pop (count (by simp [hph, inXbuf])) hq)
  | drained hph hi =>
    have hc := count (by simp [hph, inXbuf])
    simpa [occupancyDue, lostUnits, hi] using hc.symm
  | xchgPush hph =>
    have hzero : occupancy s.xcvr = 0 := by simpa [occupancyDue, hph] using hd
    simp [occupancyDue, lostUnits, occupancy_push, hzero]
  | xchgDone r rest hph hq =>
    have hone : occupancy s.xcvr = 1 := by simpa [occupancyDue, hph] using hd
    simpa [occupancyDue, lostUnits, ← occupancy_pop hq] using hone

/-- A turn of the host keeps the account: a command starts, and the mode changes, with an empty transceiver. -/
theorem HostEffect.accounted {s t : State} (h : HostEffect s t) (hs : s.Inv) (ha : Accounted s) : Accounted t := by
  have empty (hb : busy s = false) : s.xcvr = Transceiver.reset := ha.empty (busy_eq_false.1 hb)
  cases h with
  | fault => exact ha.congr rfl rfl rfl rfl
  | refusal => exact ha.congr rfl rfl rfl rfl
  | plain => exact ha.congr rfl rfl rfl rfl
  | xchg ops hb => exact ⟨ha.only, by simp [startXchg, occupancyDue, lostUnits, occupancy_eq_zero, empty hb]⟩
  | xbufEmpty ops txp rxp hb => exact .of_empty rfl ha.only (empty hb)
  | xbuf ops txp rxp hb => exact ⟨ha.only, due_of_count rfl (hs.not_stuck hb) (occupancy_eq_zero.2 (empty hb)).symm⟩
  | mode ops b hprog hne hb => exact .of_empty (busy_eq_false.1 hb) ha.only (refit_xcvr_of_reset (empty hb))

/-- A turn of any agent of a running machine keeps the account. -/
theorem TurnEffect.accounted {s t : State} {tn : Turn} (h : TurnEffect s tn t) (hs : s.Inv) (hrun : s.Running)
    (ha : Accounted s) : Accounted t := by
  cases h with
  | pass => exact ha
  | host hhost => exact hhost.accounted hs ha
  | engine hb hk hstep =>
    have heff := engineStep_effect hb hstep
    have hdue : occupancyDue s.eng (occupancy s.xcvr) := by simpa [lostUnits_eq_zero hk] using ha.due
    obtain ⟨-, hlim, -⟩ := (paramsAdmitted_iff _).1 hrun.2.2
    exact ⟨heff.frame.placed.trans ha.only, heff.due hlim hk hdue⟩
  | engineFault => exact ha.congr rfl rfl rfl rfl
  | load u rest hsr hq => exact ha.congr rfl (occupancy_load hsr hq) rfl rfl
  | shift u hsr => exact ha.congr rfl (occupancy_shift hsr _) rfl rfl
  | shiftFault => exact ha.congr rfl rfl rfl rfl
  | reset => exact .of_empty rfl ha.only rfl
  | request hb hplaced => exact absurd (hplaced.symm.trans ha.only) nofun

/-- A step keeps the account. -/
theorem step_accounted {s t : State} (h : step s = .next t) (hs : s.Inv) (ha : Accounted s) : Accounted t := by
  have tick {v : State} (hv : Accounted v) : Accounted v.tick := hv.congr (by simp) (by simp) (by simp) (by simp)
  obtain ⟨ts, -, rfl⟩ | ⟨-, -, -, rfl⟩ | ⟨-, -, rfl⟩ | ⟨hrun, tn, v, -, -, heff, rfl⟩ := step_cases h
  · exact tick (.of_empty rfl ha.only rfl)
  · exact ha.congr rfl rfl rfl rfl
  · exact ha
  · exact tick (heff.accounted (hs.setTurns _) hrun (ha.congr rfl rfl rfl rfl))

/-! ### The STATUS word and the data registers (R14, R15, R16) -/

/-- Every bit of STATUS, by the field it lies in (R16). -/
theorem statusWord_getLsbD (s : State) (i : Nat) : (statusWord s).getLsbD i =
    if i < 1 then (BitVec.ofBool (busy s)).getLsbD i
    else if i < 2 then (BitVec.ofBool s.regs.done).getLsbD (i - 1)
    else if i < 5 then (phaseCode s.eng.phase).getLsbD (i - 2)
    else if i < 6 then (BitVec.ofBool (modeBit s.eng.m)).getLsbD (i - 5)
    else if i < 8 then false
    else if i < 16 then s.eng.inflight.getLsbD (i - 8)
    else false := by
  unfold statusWord
  rw [BitVec.getLsbD_append, BitVec.getLsbD_append, BitVec.getLsbD_append, BitVec.getLsbD_append,
    BitVec.getLsbD_append, BitVec.getLsbD_append]
  simp only [Nat.sub_sub, BitVec.getLsbD_zero]
  grind

theorem statusWord_busy (s : State) : (statusWord s).getLsbD 0 = busy s := by
  rw [statusWord_getLsbD]; simp

theorem statusWord_done (s : State) : (statusWord s).getLsbD 1 = s.regs.done := by
  rw [statusWord_getLsbD]; simp

theorem statusWord_mode (s : State) : (statusWord s).getLsbD 5 = modeBit s.eng.m := by
  rw [statusWord_getLsbD]; simp

/-- A field of STATUS is a vector when each of its bits is. -/
theorem statusWord_field {s : State} {lo n : Nat} {v : BitVec n}
    (h : ∀ i < n, (statusWord s).getLsbD (lo + i) = v.getLsbD i) : (statusWord s).extractLsb' lo n = v :=
  BitVec.eq_of_getLsbD_eq fun i hi => by simp [hi, h i hi]

theorem statusWord_phase (s : State) : (statusWord s).extractLsb' 2 3 = phaseCode s.eng.phase :=
  statusWord_field fun i hi => by rw [statusWord_getLsbD]; grind

theorem statusWord_reserved_low (s : State) : (statusWord s).extractLsb' 6 2 = 0#2 :=
  statusWord_field fun i hi => by rw [statusWord_getLsbD]; grind

/-- STATUS.INFLIGHT is the in-flight count (R26). -/
theorem statusWord_inflight (s : State) : (statusWord s).extractLsb' 8 8 = s.eng.inflight :=
  statusWord_field fun i hi => by rw [statusWord_getLsbD]; grind

theorem statusWord_reserved_high (s : State) : (statusWord s).extractLsb' 16 16 = 0#16 :=
  statusWord_field fun i hi => by rw [statusWord_getLsbD]; grind

/-- A data register reads 0 above its 16 bits (R14, R15). -/
theorem extractHigh_setWidth (u : Unit16) : (u.setWidth 32).extractLsb' 16 16 = 0#16 :=
  BitVec.eq_of_getLsbD_eq fun i hi => by simp [BitVec.getLsbD_extractLsb', BitVec.getLsbD_setWidth]

/-- A data register reads its 16 bits (R14, R15). -/
theorem extractLow_setWidth (u : Unit16) : (u.setWidth 32).extractLsb' 0 16 = u :=
  BitVec.eq_of_getLsbD_eq fun i hi => by simp [BitVec.getLsbD_setWidth, hi]; omega

/-- Settles O33: STATUS field by field, and the two registers that keep 16 bits. -/
theorem statusAndDataRegisterFields : Obligations.StatusAndDataRegisterFields := by
  refine ⟨fun s => ⟨statusWord_busy s, statusWord_done s, statusWord_phase s, ?_, statusWord_reserved_low s,
    statusWord_inflight s, statusWord_reserved_high s⟩, fun s v => ⟨extractHigh_setWidth _, extractLow_setWidth _,
    extractHigh_setWidth _⟩⟩
  rw [readReg, statusWord_mode]
  cases s.eng.m <;> rfl

/-- Settles O55: a step keeps the invariant and the account; and an engine that a refused access holds outside A_PUSH has
popped a unit it has not counted out. -/
theorem everyStepKeepsTheOccupancy : Obligations.EveryStepKeepsTheOccupancy := by
  refine ⟨fun s t hs h => (everyStepKeepsTheInvariant s t hs.inv h).occInv (step_accounted h hs.inv hs.accounted), ?_⟩
  intro s hs hx
  have hcount : ((readReg s .status).extractLsb' 8 8).toNat = occupancy s.xcvr + lostUnits s := by
    rw [readReg, statusWord_inflight]
    exact (occupancyDue_iff_of_inXbuf hx).1 hs.due
  rw [hcount]
  constructor
  · rintro (hk | hph)
    · simp [lostUnits_eq_zero hk]
    · simp [lostUnits, hph]
  · intro hk hph
    have htransfer := hs.inv.stuck hk
    have hpops : s.eng.phase = .aPop ∨ s.eng.phase = .bDrain := by
      cases hp : s.eng.phase <;> simp_all [inTransfer]
    simp [lostUnits, hk, hpops]

/-! ### The state the model starts in -/

/-- Settles O53: the state the model starts in is a reset of itself. -/
theorem invariantsHoldAtReset : Obligations.InvariantsHoldAtReset := by
  have hinv : State.reset.Inv := resetBlock_inv (s := State.reset) memWf_reset
  exact ⟨hinv, hinv.occInv (.of_empty rfl rfl rfl)⟩

/-! ### RXDATA (R15) -/

/-- From `s` to `t` an XCHG has completed (R61): S_WAITRX has popped a unit and written it to RXDATA. -/
structure XchgCompletes (s t : State) : Prop where
  waiting : s.eng.phase = .sWaitRx
  idle    : t.eng.phase = .idle
  done    : t.regs.done = true
  popped  : ∃ r rest, s.xcvr.rxq = r :: rest ∧ t.regs.rxdata = trunc s.eng.m r

/-- A step of a running engine keeps RXDATA or completes an XCHG. -/
theorem EngineEffect.rxdata {s t : State} (h : EngineEffect s t) :
    t.regs.rxdata = s.regs.rxdata ∨ XchgCompletes s t := by
  cases h with
  | xchgDone r rest hph hq => exact .inr ⟨hph, rfl, rfl, r, rest, hq, rfl⟩
  | _ => exact .inl rfl

/-- No turn of the host writes RXDATA. -/
theorem HostEffect.rxdata {s t : State} (h : HostEffect s t) : t.regs.rxdata = s.regs.rxdata := by
  cases h with
  | plain ops vars regs m hregs => exact hregs.1
  | _ => rfl

/-- No request given to an idle engine writes RXDATA. -/
theorem RequestEffect.rxdata {s t : State} (h : RequestEffect s t) : t.regs.rxdata = s.regs.rxdata := by
  cases h <;> rfl

/-- A turn other than a reset keeps RXDATA or completes an XCHG. -/
theorem TurnEffect.rxdata {s t : State} {tn : Turn} (h : TurnEffect s tn t) (hr : tn ≠ .reset) :
    t.regs.rxdata = s.regs.rxdata ∨ XchgCompletes s t := by
  cases h with
  | host hhost => exact .inl hhost.rxdata
  | engine hb hk hstep => exact (engineStep_effect hb hstep).rxdata
  | request hb hp hreq => exact .inl (by rw [popPlaced_regs, hreq.rxdata])
  | reset => exact absurd rfl hr
  | _ => exact .inl rfl

/-- Settles O59: of all that a step can do, only a reset and the completion of an XCHG write RXDATA. -/
theorem rxdataChangesOnlyWhenAnXchgCompletes : Obligations.RxdataChangesOnlyWhenAnXchgCompletes := by
  intro s t h hne
  obtain ⟨ts, hts, -⟩ | ⟨-, -, -, rfl⟩ | ⟨-, -, rfl⟩ | ⟨-, tn, v, -, hr, heff, rfl⟩ := step_cases h
  · exact .inl ⟨ts, hts⟩
  · exact absurd rfl hne
  · exact absurd rfl hne
  · obtain heq | ⟨hwait, hidle, hdone, r, rest, hq, hdata⟩ := heff.rxdata hr
    · exact absurd (by rw [tick_regs, heq, setTurns_regs]) hne
    · exact .inr ⟨hwait, by rwa [tick_eng], by rwa [tick_regs], r, rest, hq, by rwa [tick_regs]⟩

end Sys2Proof.Machine
end

section
/-! PROOFS. The host window and buffer memory (20_memory.md): what a turn of the host does to a register, to buffer memory
and to a running command (R30, R31, R40, R90), the byte a unit is stored in (R33, R36), and what the engine does to buffer
memory and its pointers (R32, R35, R39, R68, R69). -/

namespace Sys2Proof.Machine

/-! ### Units and host accesses in buffer memory (R33, R36, R40) -/

theorem add_one_ne_self (a : Word) : a + 1#32 ≠ a := by bv_omega

/-- A unit's write leaves every byte outside the unit alone. -/
theorem memByte_memWrite_other (m : List Host.Cell) {a b : Word} (u : Unit16) {n : UnitSize} (hb : b ≠ a)
    (hb' : n = .two → b ≠ a + 1#32) : memByte (memWrite m a u n) b = memByte m b := by
  cases n with
  | one => exact memByte_memSet_other m _ hb
  | two => rw [memWrite, memByte_memSet_other _ _ (hb' rfl), memByte_memSet_other m _ hb]

/-- The low byte of a unit stands at its address. -/
theorem memByte_memWrite_low (m : List Host.Cell) (a : Word) (u : Unit16) (n : UnitSize) :
    memByte (memWrite m a u n) a = u.extractLsb' 0 8 := by
  cases n with
  | one => exact memByte_memSet_same m a _
  | two => rw [memWrite, memByte_memSet_other _ _ (add_one_ne_self a).symm, memByte_memSet_same]

/-- The high byte of a 16-bit unit stands at the address above. -/
theorem memByte_memWrite_high (m : List Host.Cell) (a : Word) (u : Unit16) :
    memByte (memWrite m a u .two) (a + 1#32) = u.extractLsb' 8 8 := memByte_memSet_same _ _ _

/-- The two bytes of a 16-bit unit, put together, are the unit. -/
theorem append_bytes (u : Unit16) : u.extractLsb' 8 8 ++ u.extractLsb' 0 8 = u :=
  BitVec.eq_of_getLsbD_eq fun i hi => by
    rw [BitVec.getLsbD_append, BitVec.getLsbD_extractLsb', BitVec.getLsbD_extractLsb']
    grind

/-- Settles O47: the bytes of a unit, low byte first. -/
theorem unitsAreLittleEndian : Obligations.UnitsAreLittleEndian := by
  intro m a u
  refine ⟨rfl, rfl, memByte_memWrite_low m a u .one, memByte_memWrite_low m a u .two, memByte_memWrite_high m a u,
    ?_, ?_, fun b hb => memByte_memWrite_other m u hb nofun, fun b hb hb' => memByte_memWrite_other m u hb fun _ => hb'⟩
  · rw [memRead, memByte_memWrite_high, memByte_memWrite_low, append_bytes]
  · rw [memRead, memByte_memWrite_low]

/-- The address one on and `k` on from there is `k + 1` on. -/
theorem add_one_add_ofNat (a : Word) (k : Nat) : a + 1#32 + BitVec.ofNat 32 k = a + BitVec.ofNat 32 (k + 1) := by
  rw [BitVec.add_assoc, Nat.add_comm k 1, BitVec.ofNat_add]

theorem add_ofNat_succ_ne_self (a : Word) {k : Nat} (hk : k + 1 < 2 ^ 32) : a + BitVec.ofNat 32 (k + 1) ≠ a := by
  bv_omega

/-- A host store leaves every byte alone that it does not name. -/
theorem memByte_memStoreBytes_other (m : List Host.Cell) {a b : Word} {vs : List Byte}
    (h : ∀ k < vs.length, b ≠ a + BitVec.ofNat 32 k) : memByte (memStoreBytes m a vs) b = memByte m b := by
  induction vs generalizing m a with
  | nil => rfl
  | cons v rest ih =>
    have hfirst : b ≠ a := by simpa using h 0 (Nat.succ_pos _)
    have hrest : ∀ k < rest.length, b ≠ a + 1#32 + BitVec.ofNat 32 k := fun k hk => by
      rw [add_one_add_ofNat]; exact h (k + 1) (Nat.succ_lt_succ hk)
    rw [memStoreBytes, ih _ hrest, memByte_memSet_other m v hfirst]

/-- Each byte of a host store that does not overwrite itself stands at its address afterwards. -/
theorem memByte_memStoreBytes_get (m : List Host.Cell) (a : Word) {vs : List Byte} (hlen : vs.length ≤ 2 ^ 32) {k : Nat}
    {v : Byte} (hv : vs[k]? = some v) : memByte (memStoreBytes m a vs) (a + BitVec.ofNat 32 k) = v := by
  induction vs generalizing m a k with
  | nil => simp at hv
  | cons w rest ih =>
    rw [List.length_cons] at hlen
    cases k with
    | zero =>
      have hrest : ∀ k < rest.length, a ≠ a + 1#32 + BitVec.ofNat 32 k := fun k hk => by
        rw [add_one_add_ofNat]; exact (add_ofNat_succ_ne_self a (by omega)).symm
      rw [BitVec.add_zero, memStoreBytes, memByte_memStoreBytes_other _ hrest, memByte_memSet_same]
      simpa using hv
    | succ k =>
      rw [← add_one_add_ofNat]
      exact ih _ _ (by omega) (by simpa using hv)

/-- The lowest byte of a load is the byte put in last. -/
theorem extract_low_shiftIn (x : Word) (b : Byte) : (x <<< 8 ||| b.setWidth 32).extractLsb' 0 8 = b :=
  BitVec.eq_of_getLsbD_eq fun i hi => by
    have hlt : i < 32 := by omega
    simp [hi, hlt]

/-- The higher bytes of a load are those that stood one byte below. -/
theorem extract_high_shiftIn (x : Word) (b : Byte) {k : Nat} (hk : k + 1 < 4) :
    (x <<< 8 ||| b.setWidth 32).extractLsb' (8 * (k + 1)) 8 = x.extractLsb' (8 * k) 8 :=
  BitVec.eq_of_getLsbD_eq fun i hi => by
    have hsub : 8 * (k + 1) + i - 8 = 8 * k + i := by omega
    have hlt : 8 * (k + 1) + i < 32 := by omega
    have hge : ¬ 8 * (k + 1) + i < 8 := by omega
    simp [hi, hsub, hlt, hge, BitVec.getLsbD_of_ge b (8 * (k + 1) + i) (by omega)]
    exact (BitVec.getLsbD_eq_getElem (by omega)).symm

/-- A host load gives, in each byte of the variable, the byte of memory it names, or 0 past its length. -/
theorem extract_memLoadBytes (m : List Host.Cell) (a : Word) (n : Nat) {k : Nat} (hk : k < 4) :
    (memLoadBytes m a n).extractLsb' (8 * k) 8 = if k < n then memByte m (a + BitVec.ofNat 32 k) else 0#8 := by
  induction n generalizing a k with
  | zero => simp [memLoadBytes]
  | succ n ih =>
    cases k with
    | zero => simpa [memLoadBytes] using extract_low_shiftIn _ _
    | succ k =>
      rw [memLoadBytes, extract_high_shiftIn _ _ hk, ih _ (by omega), add_one_add_ofNat]
      simp

/-! ### A turn of the host with an operation of its own -/

@[simp] theorem setTurns_halted (s : State) (ts : List Turn) : (s.setTurns ts).halted = s.halted := rfl
@[simp] theorem setProg_halted (s : State) (ops : List HostOp) : (s.setProg ops).halted = s.halted := rfl
@[simp] theorem setMem_halted (s : State) (m : List Host.Cell) : (s.setMem m).halted = s.halted := rfl
@[simp] theorem assign_halted (s : State) (x : Nat) (v : Word) : (s.assign x v).halted = s.halted := rfl
@[simp] theorem writeReg_halted (s : State) (r : HostReg) (v : Word) : (writeReg r v s).halted = s.halted := by
  cases r <;> rfl

/-- Going on twice is going on once with both. -/
theorem onNext_onNext (o : Host.Outcome State Fault Refusal) (f g : State → State) :
    onNext (onNext o f) g = onNext o fun t => g (f t) := by cases o <;> rfl

/-- An operation that is no pseudo-operation is done as it stands. -/
theorem hostMove_eq_hostPrim {op : HostOp} {rest : List HostOp} {s : State} (hw : isWrapper op = false)
    (hx : expandOp s.params op = [op]) (hp : s.hostProg = op :: rest) : hostMove op rest s = hostPrim op rest s := by
  simp [hostMove, hw, hx, setProg_self s hp]

/-- The step of a host whose next operation is no pseudo-operation. -/
theorem step_hostPrim {s : State} {op : HostOp} {rest : List HostOp} {ts : List Turn} (h : s.HostTurn op rest ts)
    (hw : isWrapper op = false) (hx : expandOp s.params op = [op]) :
    step s = onNext (hostPrim op rest (s.setTurns ts)) State.tick := by
  have hp : (s.setTurns ts).hostProg = op :: rest := h.2
  rw [step_turn h.1 nofun, runTurn]
  simp only [hp, hostMove_eq_hostPrim hw (show expandOp (s.setTurns ts).params op = [op] from hx) hp]

/-- The host does its operation in a running machine, which has not stopped. -/
theorem State.HostTurn.not_halted {s : State} {op : HostOp} {rest : List HostOp} {ts : List Turn}
    (h : s.HostTurn op rest ts) : s.halted = false := running_not_halted h.1.1

/-- A store in the register window, then the operation and the step counted. -/
theorem step_store {s : State} {b : Nat} {a v : Word} {rest : List HostOp} {ts : List Turn}
    (h : s.HostTurn (.store b a v) rest ts) :
    step s = onNext (hostStore b a v (s.setTurns ts)) fun t => (t.popProg rest).tick := by
  rw [step_hostPrim h rfl rfl, hostPrim, onNext_onNext]

/-- A load from the register window, then the operation and the step counted. -/
theorem step_load {s : State} {b : Nat} {a : Word} {x : Nat} {rest : List HostOp} {ts : List Turn}
    (h : s.HostTurn (.load b a x) rest ts) :
    step s = .next ((hostLoad b a x (s.setTurns ts)).popProg rest).tick := by
  rw [step_hostPrim h rfl rfl, hostPrim, onNext]

/-- A state that has not stopped has its operation done and its step counted. -/
theorem popProg_tick_of_not_halted {t : State} (rest : List HostOp) (ht : t.halted = false) :
    (t.popProg rest).tick = { t with hostProg := rest, stepNo := t.stepNo + 1 } := by
  rw [popProg_of_not_halted t rest ht, tick_of_not_halted _ (by simp [ht])]; rfl

/-- A state that has stopped keeps the host's operation, and its step is not counted (R94). -/
theorem popProg_tick_of_halted {t : State} (rest : List HostOp) (ht : t.halted = true) :
    (t.popProg rest).tick = t := by
  rw [popProg_of_halted t rest ht, tick_of_halted t ht]

/-! ### The register window (R30, R31) -/

/-- The window's base is the address of CMD. -/
theorem regAt_regBase (p : Params) : regAt p 4 p.regBase = some .cmd := by
  simpa [regAddr, regOffset] using regAt_regAddr p .cmd

/-- A store at the window's base is a write of CMD. -/
theorem step_store_cmd {s : State} {v : Word} {rest : List HostOp} {ts : List Turn}
    (h : s.HostTurn (.store 4 s.params.regBase v) rest ts) :
    step s = onNext (writeCmd v (s.setTurns ts)) fun t => (t.popProg rest).tick := by
  rw [step_store h]
  simp only [hostStore, setTurns_params, regAt_regBase, hostWrite]

/-- A write of CMD while BUSY does not decode its word (R97). -/
theorem writeCmd_of_busy (v : Word) {s : State} (hb : busy s = true) :
    writeCmd v s = .next (raiseFault .cmdWhileBusy s) := if_pos hb

/-- A command word written while the block is idle runs its command (R46). -/
theorem writeCmd_of_decode {v : Word} {i : Instr} {s : State} (hb : busy s = false) (hd : decodeCmd v = .ok i) :
    writeCmd v s = exec i s := by simp [writeCmd, hb, hd]

/-- Settles O6: the base of the window is CMD, and its write decodes the word. -/
theorem stepRunsTheWrittenCommand : Obligations.StepRunsTheWrittenCommand := by
  intro s v i rest ts h hidle hd
  rw [step_store_cmd h, writeCmd_of_decode (s := s.setTurns ts) hidle hd]

/-- Settles O36: the fault leaves the host's operation where it is and its step uncounted. -/
theorem anyCommandWordWhileBusyFaults : Obligations.AnyCommandWordWhileBusyFaults := by
  intro s v rest ts h hbusy
  rw [step_store_cmd h, writeCmd_of_busy v (s := s.setTurns ts) hbusy, onNext,
    popProg_tick_of_halted _ (raiseFault_halted _ _)]

/-- A write of a register other than CMD. -/
theorem hostWrite_of_ne_cmd {r : HostReg} (hr : r ≠ .cmd) (v : Word) (s : State) :
    hostWrite r v s = .next (writeReg r v s) := by
  cases r with
  | cmd => exact absurd rfl hr
  | _ => rfl

/-- The registers in the order of their offsets (R9). -/
def windowRegs : List HostReg := [.cmd, .txaddr, .rxaddr, .len, .txdata, .rxdata, .status, .result]

/-- A read of a register does not read the schedule. -/
@[simp] theorem readReg_setTurns (s : State) (ts : List Turn) (r : HostReg) :
    readReg (s.setTurns ts) r = readReg s r := by cases r <;> rfl

/-- A load at the address of a register gives the host its value. -/
theorem step_load_register {s : State} {r : HostReg} {x : Nat} {rest : List HostOp} {ts : List Turn}
    (h : s.HostTurn (.load 4 (regAddr s.params r) x) rest ts) :
    step s = .next { s.advance ts with hostProg := rest, hostVars := setVar x (readReg s r) s.hostVars } := by
  have hl : hostLoad 4 (regAddr s.params r) x (s.setTurns ts) = (s.setTurns ts).assign x (readReg s r) := by
    simp only [hostLoad, setTurns_params, regAt_regAddr, readReg_setTurns]
  rw [step_load h, hl, popProg_tick_of_not_halted rest (by simp [h.not_halted])]; rfl

/-- Settles O30: the eight offsets are the registers' and the eight values theirs. -/
theorem hostReadsEveryRegister : Obligations.HostReadsEveryRegister := by
  intro s x rest ts o v hm h
  have hmap : (o, v) ∈ windowRegs.map fun r => (regOffset r, readReg s r) := hm
  obtain ⟨r, -, he⟩ := List.mem_map.1 hmap
  cases he
  exact step_load_register h

/-- A store at the address of a register other than CMD writes that register. -/
theorem step_store_register {s : State} {r : HostReg} (hr : r ≠ .cmd) {v : Word} {rest : List HostOp} {ts : List Turn}
    (h : s.HostTurn (.store 4 (regAddr s.params r) v) rest ts) :
    step s = .next { s.advance ts with hostProg := rest, regs := (writeReg r v s).regs } := by
  have hs : hostStore 4 (regAddr s.params r) v (s.setTurns ts) = .next (writeReg r v (s.setTurns ts)) := by
    simp only [hostStore, setTurns_params, regAt_regAddr, hostWrite_of_ne_cmd hr]
  rw [step_store h, hs, onNext, popProg_tick_of_not_halted rest (by simp [h.not_halted])]
  cases r <;> rfl

/-- The registers a host write other than a command may name. -/
def operandRegs : List HostReg := [.txaddr, .rxaddr, .len, .txdata, .rxdata, .status, .result]

/-- Settles O32: the seven offsets are the operand registers' and what stands beside each is its write. -/
theorem hostWritesOperandRegisters : Obligations.HostWritesOperandRegisters := by
  intro s v rest ts o regs hm h
  have hmap : (o, regs) ∈ operandRegs.map fun r => (regOffset r, (writeReg r v s).regs) := hm
  obtain ⟨r, hr, he⟩ := List.mem_map.1 hmap
  cases he
  exact step_store_register (by rintro rfl; simp [operandRegs] at hr) h

/-- An access that is not 4 bytes, not aligned or beyond the window names no register. -/
theorem regAtOffset_eq_none {b : Nat} {o : Word} (hbad : b ≠ 4 ∨ o.toNat % 4 ≠ 0 ∨ 0x1C < o.toNat) :
    regAtOffset b o = none := if_neg (by omega)

/-- Settles O31: an access that names no register is refused, as a store and as a load. -/
theorem badHostAccessIsRefused : Obligations.BadHostAccessIsRefused := by
  intro s b o v x op rest ts hbad hop h
  have hnone : regAt (s.setTurns ts).params b (s.params.regBase + o) = none :=
    (regAt_base s.params b o).trans (regAtOffset_eq_none hbad)
  obtain rfl | rfl := hop
  · rw [step_store h, hostStore, hnone]
    simp only [onNext, popProg_tick_of_halted rest (refuse_halted _ _)]
  · rw [step_load h, hostLoad, hnone]
    simp only [popProg_tick_of_halted rest (refuse_halted _ _)]

/-! ### Buffer memory through the host (R40) -/

/-- Settles O43: the step stores or loads, and the bytes are those of the store's and the load's own lemmas. -/
theorem hostAccessesToBufferMemory : Obligations.HostAccessesToBufferMemory := by
  constructor
  · intro s a vs rest ts h
    refine ⟨memStoreBytes s.mem a vs, ?_, fun hlen k v hv => memByte_memStoreBytes_get s.mem a hlen hv,
      fun b hb => memByte_memStoreBytes_other s.mem hb⟩
    rw [step_hostPrim h rfl rfl, hostPrim, onNext, tick_of_not_halted _ (by simp [h.not_halted])]; rfl
  · intro s a n x rest ts h
    refine ⟨memLoadBytes s.mem a n, ?_, fun k hk => extract_memLoadBytes s.mem a n hk⟩
    rw [step_hostPrim h rfl rfl, hostPrim, onNext, tick_of_not_halted _ (by simp [h.not_halted])]; rfl

/-! ### A running command under the other agents' turns (R31, R32, R90) -/

/-- From `s` to `t` the engine, its mode, whether an access holds it, the transceiver with its response port, and the peer
stand as they were. -/
structure CommandStands (s t : State) : Prop where
  eng     : t.eng = s.eng
  stuck   : t.stuck = s.stuck
  mode16  : t.cfgMode16 = s.cfgMode16
  xcvr    : t.xcvr = s.xcvr
  xifResp : t.xifResp = s.xifResp
  peer    : t.peer = s.peer

/-- While a command runs no turn of the host reaches the engine or the transceiver: each that would faults instead. -/
theorem HostEffect.commandStands {s t : State} (h : HostEffect s t) (hb : busy s = true) : CommandStands s t := by
  cases h with
  | xchg ops hidle => exact absurd (hidle.symm.trans hb) nofun
  | xbufEmpty ops txp rxp hidle => exact absurd (hidle.symm.trans hb) nofun
  | xbuf ops txp rxp hidle => exact absurd (hidle.symm.trans hb) nofun
  | mode ops b hp hne hidle => exact absurd (hidle.symm.trans hb) nofun
  | _ => exact ⟨rfl, rfl, rfl, rfl, rfl, rfl⟩

/-- What the next turn of a running machine, other than a reset, does in a step. -/
theorem step_turnEffect {s t : State} {tn : Turn} {ts : List Turn} (h : s.NextTurn tn ts) (hr : tn ≠ .reset)
    (hst : step s = .next t) : ∃ v, TurnEffect (s.setTurns ts) tn v ∧ t = v.tick := by
  obtain ⟨v, hv, heff⟩ := runTurn_effect tn (s.setTurns ts) fun _ => running_not_halted h.1
  rw [step_turn h hr, hv] at hst
  exact ⟨v, heff, by simpa [onNext] using hst.symm⟩

/-- Settles O35: a turn of the host passes or is one that leaves a running command alone. -/
theorem hostLeavesARunningCommandAlone : Obligations.HostLeavesARunningCommandAlone := by
  intro s t ts h hb hst
  obtain ⟨v, heff, rfl⟩ := step_turnEffect h nofun hst
  cases heff with
  | pass => simp
  | host hhost =>
    have hstands := hhost.commandStands hb
    simp [hstands.eng, hstands.mode16, hstands.xcvr, hstands.xifResp, hstands.peer]

/-- From `s` to `t` an engine held at a refused access has stayed held, and no received unit has been taken. -/
structure StaysHeld (s t : State) : Prop where
  stuck : t.stuck = s.stuck
  eng   : t.eng = s.eng
  rxq   : ∃ more, t.xcvr.rxq = s.xcvr.rxq ++ more

theorem StaysHeld.of_eq {s t : State} (hk : t.stuck = s.stuck) (he : t.eng = s.eng) (hq : t.xcvr.rxq = s.xcvr.rxq) :
    StaysHeld s t := ⟨hk, he, [], by simp [hq]⟩

/-- No turn but a reset moves an engine held at a refused access: its own turn passes, and the only turn that reaches the
receive queue is SHIFT, which adds to it. -/
theorem TurnEffect.staysHeld {s t : State} {tn : Turn} (h : TurnEffect s tn t) (hr : tn ≠ .reset)
    (hk : s.stuck = true) (hb : busy s = true) : StaysHeld s t := by
  cases h with
  | pass => exact .of_eq rfl rfl rfl
  | host hhost =>
    have hstands := hhost.commandStands hb
    exact .of_eq hstands.stuck hstands.eng (by rw [hstands.xcvr])
  | engine hb' hfree => exact absurd (hfree.symm.trans hk) nofun
  | engineFault hb' hfree => exact absurd (hfree.symm.trans hk) nofun
  | load => exact .of_eq rfl rfl rfl
  | shift => exact ⟨rfl, rfl, _, rfl⟩
  | shiftFault => exact .of_eq rfl rfl rfl
  | reset => exact absurd rfl hr
  | request hidle => exact absurd (hidle.symm.trans hb) nofun

/-- The turn of an engine held at a refused access uses itself up and does nothing else (R32). -/
theorem step_of_stuck {s : State} {ts : List Turn} (hk : s.stuck = true) (hb : busy s = true)
    (h : s.NextTurn .engine ts) : step s = .next (s.advance ts) := by
  have hturn : engineTurn (s.setTurns ts) = .next (s.setTurns ts) := by
    simp [engineTurn, show busy (s.setTurns ts) = true from hb, hk]
  rw [step_turn h nofun, runTurn, hturn, onNext, tick_of_not_halted _ (by simp [running_not_halted h.1])]; rfl

/-- Settles O23: a held engine's turn does nothing, and of all that a step can do only a reset ends the hold. -/
theorem refusedAccessHoldsTheEngine : Obligations.RefusedAccessHoldsTheEngine := by
  intro s hk hb
  refine ⟨fun ts h => step_of_stuck hk hb h, fun t hst => ?_⟩
  obtain ⟨ts, hts, -⟩ | ⟨-, -, -, rfl⟩ | ⟨-, -, rfl⟩ | ⟨-, tn, v, -, hr, heff, rfl⟩ := step_cases hst
  · exact .inl ⟨ts, hts⟩
  · exact .inr ⟨hk, rfl, [], by simp⟩
  · exact .inr ⟨hk, rfl, [], by simp⟩
  · obtain ⟨hstuck, heng, more, hq⟩ := heff.staysHeld hr hk hb
    exact .inr ⟨by simpa [hk] using hstuck, by simpa using heng, more, by simpa using hq⟩

/-! ### The engine in buffer memory (R35, R39, R68, R69) -/

/-- A step of an engine that can move does what its phase can do, or records a fault. -/
theorem step_engineEffect {s t : State} {ts : List Turn} (h : s.EngineTurn ts) (hst : step s = .next t) :
    ∃ v, t = v.tick ∧ (EngineEffect (s.setTurns ts) v ∨ ∃ c, v = raiseFault c (s.setTurns ts)) := by
  obtain ⟨v, hok, hv⟩ | ⟨c, -, hv⟩ := engineTurn_cases (s.setTurns ts)
  · have ht : t = v.tick := by simpa [hst] using step_engine h hv
    exact ⟨v, ht, .inl (engineStep_effect h.2.2 hok)⟩
  · have ht : t = (raiseFault c (s.setTurns ts)).tick := by simpa [hst] using step_engine h hv
    exact ⟨_, ht, .inr ⟨c, rfl⟩⟩

/-- A step of a running engine leaves every byte alone but those of the unit at the receive pointer: only a pop that stores
its unit writes. -/
theorem EngineEffect.memByte_eq {s t : State} (h : EngineEffect s t) {a : Word} (ha : a ≠ s.eng.rxptr)
    (ha' : s.eng.size = .two → a ≠ s.eng.rxptr + 1#32) : memByte t.mem a = memByte s.mem a := by
  cases h with
  | popStored => exact memByte_memWrite_other s.mem _ ha ha'
  | _ => rfl

/-- Settles O25: what a step of a running engine can do, and a fault stores nothing. -/
theorem engineStoresOneUnit : Obligations.EngineStoresOneUnit := by
  intro s t ts h hst a ha ha'
  obtain ⟨v, rfl, heff | ⟨c, rfl⟩⟩ := step_engineEffect h hst
  · simpa using heff.memByte_eq ha ha'
  · simp

/-- The base of the transmit buffer, as the pointer and the units sent give it (R69). -/
def txBase (e : Engine) : Word := e.txptr - e.sent * BitVec.ofNat 32 (sizeBytes e.size)

/-- The base of the receive buffer, as the pointer and the units received and counted out give it (R69). -/
def rxBase (e : Engine) : Word :=
  e.rxptr - (e.sent - e.inflight.setWidth 32) * BitVec.ofNat 32 (sizeBytes e.size)

/-- A pointer one unit on and a count one up leave the base where it was. -/
theorem nextUnit_sub_succ (p c : Word) (n : UnitSize) :
    nextUnit p n - (c + 1#32) * BitVec.ofNat 32 (sizeBytes n) = p - c * BitVec.ofNat 32 (sizeBytes n) := by
  rw [nextUnit, BitVec.add_mul, BitVec.one_mul, add_sub_add_right_eq_sub]

/-- Under the cap the in-flight count goes up without wrapping (R22). -/
theorem sub_inflight_push (c : Word) {i : BitVec 8} (hi : i.toNat < 255) :
    c + 1#32 - (i + 1#8).setWidth 32 = c - i.setWidth 32 := by bv_omega

/-- A count above 0 goes down without wrapping (R67, R70). -/
theorem sub_inflight_pop (c : Word) {i : BitVec 8} (hi : i ≠ 0#8) :
    c - (i - 1#8).setWidth 32 = c - i.setWidth 32 + 1#32 := by bv_omega

/-- A step of a running engine moves a present transmit buffer's pointer exactly when it counts a unit sent. -/
theorem EngineEffect.txBase_eq {s t : State} (h : EngineEffect s t) (hp : s.eng.txp = true) :
    txBase t.eng = txBase s.eng := by
  cases h with
  | push =>
    simp only [txBase, txptrAfterPush, hp, if_true]
    exact nextUnit_sub_succ _ _ _
  | _ => rfl

/-- A step of a running engine moves a present receive buffer's pointer exactly when it counts a unit out; a push raises
the units sent and those in flight alike. -/
theorem EngineEffect.rxBase_eq {s t : State} (h : EngineEffect s t) (hlim : s.params.fifoLimit ≤ 255)
    (hp : s.eng.rxp = true) : rxBase t.eng = rxBase s.eng := by
  cases h with
  | push u hph hn hl =>
    simp only [rxBase, sub_inflight_push s.eng.sent (i := s.eng.inflight) (by omega)]
  | popStored after r rest hph hi =>
    simp only [rxBase, sub_inflight_pop _ hi]
    exact nextUnit_sub_succ _ _ _
  | popDiscarded after r rest hph hi hq habsent => exact absurd (habsent.symm.trans hp) nofun
  | _ => rfl

/-- A step that leaves a running engine stuck at a refused access leaves its registers as they were (R32). -/
theorem EngineEffect.eng_eq_of_stuck {s t : State} (h : EngineEffect s t) (hfree : s.stuck = false)
    (hk : t.stuck = true) : t.eng = s.eng := by
  cases h with
  | readRefused => rfl
  | writeRefused => rfl
  | _ => exact absurd (hk.symm.trans hfree) nofun

/-- Settles O26: every step of a running engine keeps both bases, and a fault changes no register of it. -/
theorem pointersFollowTheCounts : Obligations.PointersFollowTheCounts := by
  intro s t ts h hst
  obtain ⟨-, hlim, -⟩ := (paramsAdmitted_iff _).1 h.1.1.2.2
  obtain ⟨v, rfl, heff | ⟨c, rfl⟩⟩ := step_engineEffect h hst
  · rw [tick_eng, tick_stuck]
    exact ⟨heff.txBase_eq, heff.rxBase_eq hlim, heff.eng_eq_of_stuck h.2.1⟩
  · simp

end Sys2Proof.Machine
end

section
/-! PROOFS. Encoding (30_encoding.md): decoding and encoding are each other's inverse on either port (R46, R48 to R51),
the engine's writes are well formed (R48), a step runs the word it is given, on the host's turn or the idle engine's, and
what a turn of the host does with a reserved command word (R49), a WAIT for DONE (R52) and a pseudo-operation (R53). -/

namespace Sys2Proof

/-! ### The fields of a word (R46, R48) -/

/-- One bit of a word, as a field of its own. -/
theorem ofBool_getLsbD {n : Nat} (v : BitVec n) (i : Nat) : BitVec.ofBool (v.getLsbD i) = v.extractLsb' i 1 := by
  apply BitVec.eq_of_getLsbD_eq
  intro j hj
  obtain rfl : j = 0 := by omega
  simp

theorem encodeRequest_xop (xop : BitVec 3) (w16 : Bool) (wdata : Unit16) :
    (encodeRequest xop w16 wdata).extractLsb' 0 3 = xop := BitVec.extractLsb'_append_eq_right

theorem encodeRequest_w16 (xop : BitVec 3) (w16 : Bool) (wdata : Unit16) :
    (encodeRequest xop w16 wdata).getLsbD 3 = w16 := by
  rw [encodeRequest, BitVec.getLsbD_append, BitVec.getLsbD_append]
  simp

theorem encodeRequest_wdata (xop : BitVec 3) (w16 : Bool) (wdata : Unit16) :
    (encodeRequest xop w16 wdata).extractLsb' 4 16 = wdata := by
  rw [encodeRequest, BitVec.extractLsb'_append_eq_of_le (by decide)]
  exact BitVec.extractLsb'_append_eq_left

/-- A request is not a word with another XOP. -/
theorem encodeRequest_ne {xop : BitVec 3} {v : XifRequest} (h : v.extractLsb' 0 3 ≠ xop) (w16 : Bool)
    (wdata : Unit16) : encodeRequest xop w16 wdata ≠ v := by
  rintro rfl
  exact h (encodeRequest_xop xop w16 wdata)

/-- A request is its three fields put together. -/
theorem encodeRequest_of_fields (v : XifRequest) :
    encodeRequest (v.extractLsb' 0 3) (v.getLsbD 3) (v.extractLsb' 4 16) = v := by
  rw [encodeRequest, ofBool_getLsbD, BitVec.extractLsb'_append_extractLsb'_eq_extractLsb' (show 4 = 3 + 1 from rfl),
    BitVec.extractLsb'_append_extractLsb'_eq_extractLsb' (show 3 = 0 + 3 from rfl), BitVec.extractLsb'_eq_self]

/-- A CMD word with OP = 0b10 and RSV = 0 is the word of the XBUF its TXP and RXP bits name. -/
theorem encodeXbuf_of_fields {v : Word} (hop : v.extractLsb' 0 2 = 0b10#2) (hrsv : v.extractLsb' 4 28 = 0#28) :
    encodeXbuf (v.getLsbD 2) (v.getLsbD 3) = v := by
  rw [encodeXbuf, ← hop, ← hrsv, ofBool_getLsbD, ofBool_getLsbD,
    BitVec.extractLsb'_append_extractLsb'_eq_extractLsb' (show 4 = 3 + 1 from rfl),
    BitVec.extractLsb'_append_extractLsb'_eq_extractLsb' (show 3 = 2 + 1 from rfl),
    BitVec.extractLsb'_append_extractLsb'_eq_extractLsb' (show 2 = 0 + 2 from rfl), BitVec.extractLsb'_eq_self]

/-! ### Decoding and encoding (R46, R48 to R51) -/

theorem decodeCmd_encodeXbuf (txp rxp : Bool) : decodeCmd (encodeXbuf txp rxp) = .ok (.xbuf txp rxp) := by
  decide +revert

/-- XOP = 0b011 is a WRITE_UNIT, whatever its W16 and WDATA. -/
theorem decodeXif_writeRequest (w16 : Bool) (wdata : Unit16) :
    decodeXif (encodeRequest 0b011#3 w16 wdata) = .ok (.writeUnit w16 wdata) := by
  have h0 := encodeRequest_ne (xop := 0b011#3) (v := 0x00000#20) (by decide) w16 wdata
  have h1 := encodeRequest_ne (xop := 0b011#3) (v := 0x00001#20) (by decide) w16 wdata
  have h2 := encodeRequest_ne (xop := 0b011#3) (v := 0x00002#20) (by decide) w16 wdata
  rw [decodeXif, if_neg h0, if_neg h1, if_neg h2, if_pos (encodeRequest_xop ..), encodeRequest_w16, encodeRequest_wdata]

/-- XOP = 0b100 with WDATA = 0 is a READ_UNIT, whatever its W16. -/
theorem decodeXif_readRequest (w16 : Bool) :
    decodeXif (encodeRequest 0b100#3 w16 0#16) = .ok (.readUnit w16) := by
  decide +revert

/-- Settles O1: an operation's word holds its operands as the fields that decoding reads. -/
theorem everyOperationDecodesFromItsWord : Obligations.EveryOperationDecodesFromItsWord := by
  intro i
  cases i with
  | xchg => rfl
  | xbuf txp rxp => exact decodeCmd_encodeXbuf txp rxp
  | pollTxfull => rfl
  | pollRxempty => rfl
  | writeUnit w16 wdata => exact decodeXif_writeRequest w16 wdata
  | readUnit w16 => exact decodeXif_readRequest w16

/-- A CMD word that decodes is the word of what it decodes to. -/
theorem encode_of_decodeCmd {v : Word} {i : Instr} (h : decodeCmd v = .ok i) : encode i = .cmd v := by
  unfold decodeCmd at h
  split at h
  · next hv => cases h; rw [hv]; rfl
  · split at h
    · next hf => cases h; exact congrArg Encoded.cmd (encodeXbuf_of_fields hf.1 hf.2)
    · cases h

/-- A request that decodes is the request of what it decodes to. -/
theorem encode_of_decodeXif {v : XifRequest} {i : Instr} (h : decodeXif v = .ok i) : encode i = .xif v := by
  have fields := encodeRequest_of_fields v
  unfold decodeXif at h
  split at h
  · cases h
  split at h
  · next hv => cases h; rw [hv]; rfl
  split at h
  · next hv => cases h; rw [hv]; rfl
  split at h
  · next hop => cases h; rw [hop] at fields; exact congrArg Encoded.xif fields
  split at h
  · next hf => cases h; rw [hf.1, hf.2] at fields; exact congrArg Encoded.xif fields
  · cases h

/-- Settles O2: on either port the fields that decoding reads are all there is of a word. -/
theorem noSecondWordForAnOperation : Obligations.NoSecondWordForAnOperation := by
  intro e i h
  cases e with
  | cmd v => exact encode_of_decodeCmd h
  | xif v => exact encode_of_decodeXif h

/-- The command words of R46. -/
def commandWords : List Word := [0x00000001#32, 0x00000002#32, 0x00000006#32, 0x0000000A#32, 0x0000000E#32]

theorem encodeXbuf_mem_commandWords (txp rxp : Bool) : encodeXbuf txp rxp ∈ commandWords := by
  decide +revert

/-- A CMD word decodes to a command or is reserved (R49). -/
theorem decodeCmd_error {v : Word} {e : DecodeError} (h : decodeCmd v = .error e) : e = .reservedCmd := by
  unfold decodeCmd at h
  split at h
  · cases h
  · split at h <;> cases h
    rfl

/-- A word that is none of the five is reserved: one that decoded would be its command's own word. -/
theorem decodeCmd_of_not_mem {v : Word} (hv : v ∉ commandWords) : decodeCmd v = .error .reservedCmd := by
  cases h : decodeCmd v with
  | error e => rw [decodeCmd_error h]
  | ok i =>
    have hword := encode_of_decodeCmd h
    obtain rfl | ⟨txp, rxp, rfl⟩ := Machine.decodeCmd_cases h
    · cases hword; simp [commandWords] at hv
    · cases hword; exact absurd (encodeXbuf_mem_commandWords txp rxp) hv

/-- Settles O3: each of the five decodes to its command, and a sixth word has none to be the word of. -/
theorem commandWordsAreFive : Obligations.CommandWordsAreFive :=
  ⟨rfl, decodeCmd_encodeXbuf false false, decodeCmd_encodeXbuf true false, decodeCmd_encodeXbuf false true,
    decodeCmd_encodeXbuf true true, fun _ => decodeCmd_of_not_mem⟩

/-- Settles O4: eight words, each decoded. -/
theorem requestWordsOfTheSpecDecode : Obligations.RequestWordsOfTheSpecDecode := by
  unfold Obligations.RequestWordsOfTheSpecDecode
  decide

/-- A table row's word decodes as the word it is on its port (R50). -/
theorem tableWord_of_decodeTableWord {nbits w : Nat} {i : Instr} (h : decodeTableWord nbits w = some i) :
    ∃ e, tableWord nbits w = some e ∧ decode e = .ok i := by
  unfold decodeTableWord at h
  split at h
  · next e he =>
    refine ⟨e, he, ?_⟩
    cases hd : decode e with
    | ok j => rw [hd] at h; cases h; rfl
    | error _ => rw [hd] at h; cases h
  · cases h

end Sys2Proof

namespace Sys2Proof.Machine

/-! ### The width of the units the engine writes (R48, R60, R66) -/

/-- A byte held as a unit has nothing in its high half. -/
theorem extractHigh_setWidth_byte (b : Byte) : (b.setWidth 16).extractLsb' 8 8 = 0#8 := by
  apply BitVec.eq_of_getLsbD_eq
  intro i hi
  simp

/-- A byte held as a unit is its low half. -/
theorem extractLow_setWidth_byte (b : Byte) : (b.setWidth 16).extractLsb' 0 8 = b := by
  apply BitVec.eq_of_getLsbD_eq
  intro i hi
  simp [hi]
  omega

/-- A unit of `unitbits(m)` bits read from buffer memory has the width of `m` (R33, R55). -/
theorem memRead_fits (m : Mode) (mem : List Host.Cell) (a : Word) : unitFits m (memRead mem a (sizeOfMode m)) := by
  cases m with
  | width8 => simp [unitFits, trunc, memRead, sizeOfMode, extractLow_setWidth_byte]
  | width16 => rfl

/-- The transmit source gives units of the command's mode, from memory or DUMMY (R66). -/
theorem txUnit_fits {s : State} (hs : s.eng.size = sizeOfMode s.eng.m) {u : Unit16} (h : txUnit s = some u) :
    unitFits s.eng.m u := by
  unfold txUnit at h
  split at h
  · split at h
    · cases h; rw [hs]; exact memRead_fits ..
    · cases h
  · cases h; exact trunc_fits ..

/-- A WRITE_UNIT of a mode with a unit of its width is well formed. -/
theorem wellFormed_writeUnit {m : Mode} {u : Unit16} (h : unitFits m u) :
    (Instr.writeUnit (modeBit m) u).wellFormed = true := by
  cases m with
  | width8 =>
    have hhigh : u.extractLsb' 8 8 = 0#8 := by rw [← h]; exact extractHigh_setWidth_byte _
    simp [Instr.wellFormed, hhigh]
  | width16 => rfl

/-- Settles O5: the size of a command is its mode's, and S_WAITTX truncates to the mode. -/
theorem engineIssuesWellFormedWrites : Obligations.EngineIssuesWellFormedWrites := by
  intro s hs
  exact ⟨fun u hu => wellFormed_writeUnit (txUnit_fits hs.engine.size hu), wellFormed_writeUnit (trunc_fits ..)⟩

/-! ### A step runs the word it is given (R46, R48) -/

/-- An idle engine given a request runs the transaction it decodes to. -/
theorem engineTurn_of_placed {s : State} {w : XifRequest} {i : Instr} (hb : busy s = false) (hp : s.placed = some w)
    (hd : decodeXif w = .ok i) : engineTurn s = onNext (exec i s) State.popPlaced := by
  simp [engineTurn, hb, placedStep, hp, serveXif, hd]

/-- Settles O7: at its turn the idle engine issues the request. -/
theorem stepRunsTheDrivenRequest : Obligations.StepRunsTheDrivenRequest := by
  intro s w i ts h hidle hp hd
  rw [step_turn h nofun, runTurn, engineTurn_of_placed (s := s.setTurns ts) hidle hp hd, onNext_onNext]

/-- From `s` to `t` the host's program and the request given from outside stand as they were. -/
def SameInputs (s t : State) : Prop := t.hostProg = s.hostProg ∧ t.placed = s.placed

/-- A step that may fault keeps the inputs where the step itself does. -/
theorem settle_sameInputs {s : State} {r : Except Fault State} (h : ∀ t, r = .ok t → SameInputs s t) :
    SameInputs s (settle s r) := by
  cases r with
  | ok t => exact h t rfl
  | error c => exact ⟨rfl, rfl⟩

/-- XBUF's acceptance, a completion or a start, keeps the inputs (R63). -/
theorem startXbuf_sameInputs {txp rxp : Bool} {s t : State} (h : startXbuf txp rxp s = .ok t) : SameInputs s t := by
  unfold startXbuf at h
  split at h
  · cases h; exact ⟨rfl, rfl⟩
  · split at h <;> cases h
    exact ⟨rfl, rfl⟩

/-- No operation's meaning reads on in the host's program or issues another request. -/
theorem exec_sameInputs (i : Instr) (s : State) : ∃ t, exec i s = .next t ∧ SameInputs s t := by
  cases i with
  | xchg => exact ⟨_, rfl, by split <;> exact ⟨rfl, rfl⟩⟩
  | xbuf txp rxp =>
    refine ⟨_, rfl, ?_⟩
    split
    · exact ⟨rfl, rfl⟩
    · exact settle_sameInputs fun t => startXbuf_sameInputs
  | pollTxfull => exact ⟨_, rfl, rfl, rfl⟩
  | pollRxempty => exact ⟨_, rfl, rfl, rfl⟩
  | writeUnit w16 wdata =>
    refine ⟨_, rfl, settle_sameInputs fun t h => ?_⟩
    obtain ⟨-, rfl⟩ := writeUnit_cases h
    exact ⟨rfl, rfl⟩
  | readUnit w16 =>
    refine ⟨_, rfl, settle_sameInputs fun t h => ?_⟩
    obtain ⟨r, rest, -, rfl⟩ := readUnit_cases h
    exact ⟨rfl, rfl⟩

/-- The host's operation is done already. -/
theorem popProg_self {s : State} {ops : List HostOp} (h : s.hostProg = ops) : State.popProg ops s = s := by
  unfold State.popProg
  split
  · rfl
  · exact setProg_self s h

theorem withFetchWord_of_tableWord {nbits w : Nat} {e : Encoded} (s : State) (h : tableWord nbits w = some e) :
    s.withFetchWord nbits w = placeWord e s := by simp [State.withFetchWord, h]

/-- A CMD word placed in a running machine is the host's next store, at its next turn. -/
theorem hostTurn_placeWord {s : State} (h : s.Running) (v : Word) :
    (placeWord (.cmd v) s).HostTurn (.store 4 s.params.regBase v) s.hostProg s.turns :=
  ⟨⟨h, nextTurn_cons rfl, rfl⟩, by simp [placeWord, wr, regAddr, regOffset]⟩

/-- A request placed in a running machine is given to its engine, at its next turn. -/
theorem nextTurn_placeWord {s : State} (h : s.Running) (v : XifRequest) :
    (placeWord (.xif v) s).NextTurn .engine s.turns := ⟨h, nextTurn_cons rfl, rfl⟩

/-- Settles O8: a word on either port is run by O6 or O7, and the operation it decodes to reads nothing from the other
port's input. -/
theorem placedWordIsRunNext : Obligations.PlacedWordIsRunNext := by
  intro s nbits w i hrun hidle hnone hd
  obtain ⟨e, he, hd⟩ := tableWord_of_decodeTableWord hd
  rw [withFetchWord_of_tableWord s he]
  obtain ⟨t, ht, hprog, hplaced⟩ := exec_sameInputs i ((placeWord e s).setTurns s.turns)
  cases e with
  | cmd v =>
    have hpop : (t.popProg s.hostProg).popPlaced = t.popProg s.hostProg :=
      popPlaced_of_none _ ((popProg_placed ..).trans (hplaced.trans hnone))
    rw [stepRunsTheWrittenCommand _ v i _ _ (hostTurn_placeWord hrun v) hidle hd, ht]
    simp only [onNext, hpop]
  | xif v =>
    rw [stepRunsTheDrivenRequest _ v i _ (nextTurn_placeWord hrun v) hidle rfl hd, ht]
    have hpop : t.popProg s.hostProg = t := popProg_self hprog
    simp only [onNext, hpop]

/-! ### Reserved command words (R49) -/

/-- A reserved word written while the block is idle is refused. -/
theorem writeCmd_of_reserved {v : Word} {s : State} (hb : busy s = false) (hv : v ∉ commandWords) :
    writeCmd v s = .next (refuse .reservedCmd s) := by simp [writeCmd, hb, decodeCmd_of_not_mem hv]

/-- Settles O37: the refusal leaves the host's operation where it is and its step uncounted. -/
theorem reservedCommandIsRefused : Obligations.ReservedCommandIsRefused := by
  intro s v rest ts h hidle hv
  rw [step_store_cmd h, writeCmd_of_reserved (s := s.setTurns ts) hidle hv, onNext,
    popProg_tick_of_halted _ (refuse_halted _ _)]

/-! ### Pseudo-operations (R53) -/

/-- A write of a register other than CMD by the host (R31, R52). -/
theorem hostPrim_wr {r : HostReg} {s : State} {p : Params} (hr : r ≠ .cmd) (hp : s.params = p) (v : Word)
    (rest : List HostOp) : hostPrim (wr p r v) rest s = .next ((writeReg r v s).popProg rest) := by
  subst hp
  simp only [hostPrim, wr, hostStore, regAt_regAddr, hostWrite_of_ne_cmd hr, onNext]

/-- The step of a host whose next operation is admitted: the operation's expansion takes its place, and the first of it
is done (R53; log entry 23). -/
theorem step_hostMove {s : State} {op first : HostOp} {rest after : List HostOp} {ts : List Turn}
    (h : s.HostTurn op rest ts) (hw : (isWrapper op && s.cfgMode16) = false)
    (hx : expandOp s.params op = first :: after) :
    step s =
      onNext (hostPrim first (after ++ rest) ((s.setTurns ts).setProg (first :: (after ++ rest)))) State.tick := by
  have hmove : hostMove op rest (s.setTurns ts) =
      hostPrim first (after ++ rest) ((s.setTurns ts).setProg (first :: (after ++ rest))) := by
    simp [hostMove, setTurns_cfgMode16, hw, hx]
  simp only [step_turn h.1 nofun, runTurn, setTurns_hostProg, h.2, hmove]

/-- An admitted operation whose expansion begins with a register write does that write, and leaves the rest of the
expansion before what the host has still to do. -/
theorem step_expansion {s : State} {op : HostOp} {rest after : List HostOp} {ts : List Turn} {r : HostReg} {v : Word}
    (h : s.HostTurn op rest ts) (hw : (isWrapper op && s.cfgMode16) = false)
    (hx : expandOp s.params op = wr s.params r v :: after) (hr : r ≠ .cmd) :
    step s = .next { s.advance ts with hostProg := after ++ rest, regs := (writeReg r v s).regs } := by
  rw [step_hostMove h hw hx, hostPrim_wr (s := (s.setTurns ts).setProg _) (p := s.params) hr rfl, onNext,
    popProg_tick_of_not_halted _ (by simp [h.not_halted])]
  cases r <;> rfl

/-- The CMD word of an XBUF, by the buffers present (R46). -/
theorem cmdWord_xbuf (txp rxp : Bool) : cmdWord (.xbuf txp rxp) =
    if txp then (if rxp then 0x0000000E#32 else 0x00000006#32)
    else (if rxp then 0x0000000A#32 else 0x00000002#32) := by
  decide +revert

/-- Settles O41: neither is a wrapper, and each expansion begins with the write of an operand register. -/
theorem pseudoOperationsExpand : Obligations.PseudoOperationsExpand := by
  constructor
  · intro s v x rest ts h
    exact step_expansion h rfl rfl nofun
  · intro s ta n ra txp rxp x rest ts h
    rw [← cmdWord_xbuf]
    exact step_expansion h rfl rfl nofun

/-! ### WAIT (R52) -/

/-- A field of one bit is that bit (R7). -/
theorem fieldOf_bit (v : Word) (i : Nat) : fieldOf v i i = (BitVec.ofBool (v.getLsbD i)).setWidth 32 := by
  rw [fieldOf, show i + 1 - i = 1 by omega]
  exact BitVec.and_one_eq_setWidth_ofBool_getLsbD.trans (by simp)

/-- One load of a WAIT for DONE: the host goes on where DONE is set. -/
theorem hostWait_done (rest : List HostOp) (s : State) :
    hostWait (regAddr s.params .status) 1 1 1#32 rest s = if s.regs.done then s.setProg rest else s := by
  simp only [hostWait, regAt_regAddr, fieldOf_bit, readReg, statusWord_done]
  cases s.regs.done <;> simp

/-- The step of a host that waits for DONE: one load of STATUS (R52). -/
theorem step_waitDone {s : State} {rest : List HostOp} {ts : List Turn} (h : s.HostTurn (waitDone s.params) rest ts) :
    step s = .next { s.advance ts with hostProg := if s.regs.done then rest else s.hostProg } := by
  have hwait : hostPrim (waitDone s.params) rest (s.setTurns ts) =
      .next (if s.regs.done then (s.setTurns ts).setProg rest else s.setTurns ts) :=
    congrArg Host.Outcome.next (hostWait_done rest (s.setTurns ts))
  rw [step_hostPrim h rfl rfl, hwait, onNext, tick_of_not_halted _ (by split <;> simp [h.not_halted])]
  cases s.regs.done <;> rfl

/-- Settles O42: with DONE set the WAIT is done, and otherwise it stays the host's next operation. -/
theorem waitForDoneHolds : Obligations.WaitForDoneHolds := by
  intro s rest ts h
  have hstep := step_waitDone h
  exact ⟨fun hd => by rw [hstep, if_pos hd], fun hd => by rw [hstep, if_neg (by simp [hd])]; rfl⟩

end Sys2Proof.Machine
end

section
/-! PROOFS. The mode resolver (40_mode_resolver.md): the mode, the unit size, truncation and the unit count (R54 to R56), and
what a turn of the host with a configuration action does to the block and to the units the transceiver holds (R57). -/

namespace Sys2Proof.Machine

/-! ### Units and their count (R55, R56) -/

/-- A unit of Width8 is the value modulo `2^8` (R55). -/
theorem toNat_trunc_width8 (v : Unit16) : (trunc .width8 v).toNat = v.toNat % 2 ^ 8 := by
  have hlt : v.toNat % 2 ^ 8 < 2 ^ 16 := by omega
  rw [trunc, BitVec.toNat_setWidth, BitVec.extractLsb'_toNat, Nat.shiftRight_zero, Nat.mod_eq_of_lt hlt]

/-- The unit count of Width16 is the byte count halved, its odd trailing byte dropped (R56). -/
theorem toNat_unitsOf_width16 (len : Word) : (unitsOf len .width16).toNat = len.toNat / 2 := by
  rw [unitsOf, BitVec.toNat_ushiftRight, Nat.shiftRight_one]

/-- Settles O48: the last two clauses are arithmetic, the others hold by definition. -/
theorem unitCountAndTruncation : Obligations.UnitCountAndTruncation :=
  ⟨fun _ => ⟨fun h => by rw [currentMode, if_pos h], fun h => by rw [currentMode, if_neg (by simp [h])]⟩,
    rfl, rfl, rfl, rfl, fun v => ⟨toNat_trunc_width8 v, rfl⟩, fun len => ⟨rfl, toNat_unitsOf_width16 len⟩⟩

/-! ### Units that fit are kept (R25, R80) -/

/-- A queue whose units all fit the new width keeps them. -/
theorem refitUnits_of_fits {m : Mode} {q : List Unit16} (n place k : Nat) (h : ∀ u ∈ q, unitFits m u) :
    refitUnits m n place k q = q := by
  induction q generalizing k with
  | nil => rfl
  | cons u rest ih =>
    have hu : refitUnit m n place k u = u := if_pos (h u List.mem_cons_self)
    rw [refitUnits, hu, ih (k + 1) fun v hv => h v (List.mem_cons_of_mem u hv)]

/-- A queue within the new depth whose units all fit the new width stays. -/
theorem refitQueue_of_fits {m : Mode} {depth : Nat} {q : List Unit16} (n place : Nat) (hlen : q.length ≤ depth)
    (h : ∀ u ∈ q, unitFits m u) : refitQueue m n place depth q = q := by
  rw [refitQueue, if_pos hlen, refitUnits_of_fits n place 0 h]

/-- A shift register whose unit, if any, fits the new width stays. -/
theorem map_refitUnit_of_fits {m : Mode} {sr : Option Unit16} (n place k : Nat) (h : ∀ u, sr = some u → unitFits m u) :
    sr.map (refitUnit m n place k) = sr := by
  cases sr with
  | none => rfl
  | some u => exact congrArg some (if_pos (h u rfl))

/-- A transceiver within the new width and depths is kept (log entry 8). -/
theorem refit_xcvr_of_xcvrOk {s : State} (h : XcvrOk (currentMode s) s.params s.xcvr) : (refit s).xcvr = s.xcvr := by
  have htx := refitQueue_of_fits s.stepNo 0 h.txBound fun u hu => h.fits u (mem_pipeline.2 (.inr (.inr hu)))
  have hsr := map_refitUnit_of_fits s.stepNo 1 0 fun u hu => h.fits u (mem_pipeline.2 (.inr (.inl hu)))
  have hrx := refitQueue_of_fits s.stepNo 2 h.rxBound fun u hu => h.fits u (mem_pipeline.2 (.inl hu))
  simp only [refit, htx, hsr, hrx]

/-- A quiescent transceiver is as after a reset (R106, R108). -/
theorem State.Quiescent.xcvr_eq_reset {s : State} (h : s.Quiescent) : s.xcvr = Transceiver.reset := by
  obtain ⟨htx, hsr, hrx⟩ := h
  calc s.xcvr = ⟨s.xcvr.txq, s.xcvr.sr, s.xcvr.rxq⟩ := rfl
    _ = Transceiver.reset := by rw [htx, hsr, hrx, Transceiver.reset]

/-! ### The configuration action (R57) -/

/-- The value `cfg_mode16` has already is no change. -/
theorem configure_same {b : Bool} {s : State} (hb : b = s.cfgMode16) : configure b s = s := if_pos hb

/-- A change while BUSY is a fault. -/
theorem configure_of_busy {b : Bool} {s : State} (hb : b ≠ s.cfgMode16) (h : busy s = true) :
    configure b s = raiseFault .modeChangedWhileBusy s := by rw [configure, if_neg hb, if_pos h]

/-- A change while idle takes effect. -/
theorem configure_of_idle {b : Bool} {s : State} (hb : b ≠ s.cfgMode16) (h : busy s = false) :
    configure b s = refit { s with cfgMode16 := b } := by rw [configure, if_neg hb, if_neg (by simp [h])]

/-- A configuration action, then the operation and the step counted. -/
theorem step_configure {s : State} {b : Bool} {rest : List HostOp} {ts : List Turn}
    (h : s.HostTurn (.configure b) rest ts) :
    step s = .next ((configure b (s.setTurns ts)).popProg rest).tick := by
  rw [step_hostPrim h rfl rfl, hostPrim, onNext]

/-- The step of an idle block's change of mode: beside `cfg_mode16`, at most the transceiver's units change. -/
theorem step_configure_of_idle {s : State} {b : Bool} {rest : List HostOp} {ts : List Turn}
    (h : s.HostTurn (.configure b) rest ts) (hb : b ≠ s.cfgMode16) (hidle : busy s = false) :
    step s = .next { s.advance ts with
      hostProg := rest, cfgMode16 := b, xcvr := (refit { s with cfgMode16 := b }).xcvr } := by
  have hrun : (refit { s.setTurns ts with cfgMode16 := b }).halted = false := h.not_halted
  rw [step_configure h, configure_of_idle (s := s.setTurns ts) hb hidle, popProg_tick_of_not_halted rest hrun]
  rfl

/-- Settles O38: one clause for each case of the configuration action; the transceiver after a change is the refitted one,
which is the one before where that has the new width and depths, as an empty one has. -/
theorem modeChangeRules : Obligations.ModeChangeRules := by
  intro s b rest ts h
  refine ⟨fun hb hbusy => ?_, fun hb hidle hq => ?_, fun hb hidle => ?_, fun hb => ?_⟩
  · rw [step_configure h, configure_of_busy (s := s.setTurns ts) hb hbusy,
      popProg_tick_of_halted rest (raiseFault_halted _ _)]
  · have hempty : s.xcvr = Transceiver.reset := hq.xcvr_eq_reset
    have hkept : (refit { s with cfgMode16 := b }).xcvr = s.xcvr :=
      (refit_xcvr_of_reset (s := { s with cfgMode16 := b }) hempty).trans hempty.symm
    rw [step_configure_of_idle h hb hidle, hkept]; rfl
  · exact ⟨_, step_configure_of_idle h hb hidle, refit_xcvrOk { s with cfgMode16 := b }, refit_xcvr_of_xcvrOk⟩
  · rw [step_configure h, configure_same (s := s.setTurns ts) hb,
      popProg_tick_of_not_halted rest (by simp [h.not_halted])]
    rfl

end Sys2Proof.Machine
end

section
/-! PROOFS. The single-unit exchange (41_single_exchange.md): what a CMD write that runs XCHG or XBUF does and leaves
unchanged (R59, R63), the engine's two phases of an XCHG (R60, R61), and a whole exchange on a quiescent transceiver
(R62). -/

namespace Sys2Proof.Machine

/-! ### The commands at acceptance (R59, R63) -/

/-- XCHG of an idle block starts (R59). -/
theorem exec_xchg_of_idle {s : State} (hb : busy s = false) : exec .xchg s = .next (startXchg s) := by
  rw [exec, execXchg, hb]; rfl

/-- XCHG of a running block is a fault (R31). -/
theorem exec_xchg_of_busy {s : State} (hb : busy s = true) : exec .xchg s = .next (raiseFault .cmdWhileBusy s) := by
  rw [exec, execXchg, if_pos hb]

/-- XBUF of a running block is a fault (R31). -/
theorem exec_xbuf_of_busy (txp rxp : Bool) {s : State} (hb : busy s = true) :
    exec (.xbuf txp rxp) s = .next (raiseFault .cmdWhileBusy s) := by
  rw [exec, execXbuf, if_pos hb]

/-- Settles O9: an idle block starts, a running one faults. -/
theorem xchgIsAccepted : Obligations.XchgIsAccepted :=
  ⟨rfl, fun _ => ⟨fun h => exec_xchg_of_idle (busy_eq_false.2 h), fun h => exec_xchg_of_busy (busy_eq_true.2 h)⟩⟩

/-- What a command can do: fault in a running block, start an XCHG, fault on a misaligned buffer, or latch the fields
of an XBUF (R63), which starts or completes with DONE to match; when it does which is `execXbuf_idle`'s. -/
inductive CommandEffect (s : State) : Instr → State → Prop
  | whileBusy (i : Instr) (hb : busy s = true) : CommandEffect s i (raiseFault .cmdWhileBusy s)
  | xchg (hb : busy s = false) : CommandEffect s .xchg (startXchg s)
  | misaligned (txp rxp : Bool) (hb : busy s = false) :
      CommandEffect s (.xbuf txp rxp) (raiseFault .misalignedBuffer s)
  | xbuf (txp rxp done : Bool) (ph : Phase) (hb : busy s = false) :
      CommandEffect s (.xbuf txp rxp) { s with
        regs := { s.regs with done := done }, eng := { xbufEngine txp rxp s with phase := ph } }

theorem exec_xchg_effect {s t : State} (h : exec .xchg s = .next t) : CommandEffect s .xchg t := by
  cases hb : busy s with
  | false => cases (exec_xchg_of_idle hb).symm.trans h; exact .xchg hb
  | true => cases (exec_xchg_of_busy hb).symm.trans h; exact .whileBusy _ hb

theorem exec_xbuf_effect {txp rxp : Bool} {s t : State} (h : exec (.xbuf txp rxp) s = .next t) :
    CommandEffect s (.xbuf txp rxp) t := by
  cases hb : busy s with
  | false =>
    cases (execXbuf_idle txp rxp hb).symm.trans h
    split
    · exact .xbuf txp rxp true .idle hb
    · split
      · exact .misaligned txp rxp hb
      · exact .xbuf txp rxp false .waitTx hb
  | true => cases (exec_xbuf_of_busy txp rxp hb).symm.trans h; exact .whileBusy _ hb

/-- Beside the engine, a command writes DONE and the fault set at most. -/
theorem CommandEffect.eq_update {s t : State} {i : Instr} (h : CommandEffect s i t) :
    ∃ done eng faults, t = { s with regs := { s.regs with done := done }, eng := eng, faults := faults } := by
  cases h <;> exact ⟨_, _, _, rfl⟩

/-- XCHG faults in a running block only. -/
theorem CommandEffect.ne_xchg_of_fault {s t : State} {i : Instr} (h : CommandEffect s i t) (hidle : s.eng.phase = .idle)
    (hf : t.faults ≠ s.faults) : i ≠ .xchg := by
  cases h with
  | whileBusy _ hb => exact absurd hidle (busy_eq_true.1 hb)
  | xchg => exact absurd rfl hf
  | misaligned => nofun
  | xbuf => nofun

/-- XCHG leaves the fields of an exchange of buffers alone (R59). -/
theorem CommandEffect.xchg_keeps_buffers {s t : State} {i : Instr} (h : CommandEffect s i t) (hi : i = .xchg) :
    t.eng.count = s.eng.count ∧ t.eng.sent = s.eng.sent ∧ t.eng.inflight = s.eng.inflight ∧
    t.eng.txptr = s.eng.txptr ∧ t.eng.rxptr = s.eng.rxptr ∧ t.eng.txp = s.eng.txp ∧ t.eng.rxp = s.eng.rxp := by
  cases h with
  | whileBusy => exact ⟨rfl, rfl, rfl, rfl, rfl, rfl, rfl⟩
  | xchg => exact ⟨rfl, rfl, rfl, rfl, rfl, rfl, rfl⟩
  | misaligned => cases hi
  | xbuf => cases hi

/-- Only XCHG latches the unit of an XCHG (R63). -/
theorem CommandEffect.txunit_of_ne_xchg {s t : State} {i : Instr} (h : CommandEffect s i t) (hi : i ≠ .xchg) :
    t.eng.txunit = s.eng.txunit := by
  cases h with
  | xchg => exact absurd rfl hi
  | _ => rfl

/-- Settles O15: whatever the command does is an update of DONE, the engine and the fault set, and the clauses about
those go by its cases. -/
theorem commandFrame : Obligations.CommandFrame := by
  intro i s t hi h
  have heff : CommandEffect s i t := by
    obtain rfl | ⟨txp, rxp, rfl⟩ := hi
    · exact exec_xchg_effect h
    · exact exec_xbuf_effect h
  have hfault := heff.ne_xchg_of_fault
  have hbuffers := heff.xchg_keeps_buffers
  have hunit := heff.txunit_of_ne_xchg
  obtain ⟨done, eng, faults, rfl⟩ := heff.eq_update
  exact ⟨fun _ => rfl, rfl, rfl, rfl, rfl, rfl, rfl, rfl, rfl, rfl, rfl, rfl, rfl, rfl, rfl, rfl, rfl, rfl, hfault,
    hbuffers, hunit⟩

/-! ### The engine's two phases (R60, R61) -/

/-- A phase visit that answers `v` without stopping the machine, with the turn used up and the step counted. -/
theorem step_engine_ok {s v : State} {ts : List Turn} (h : s.EngineTurn ts)
    (hv : engineStep (s.setTurns ts) = .ok v) (hrun : v.halted = false) :
    step s = .next { v with stepNo := v.stepNo + 1 } := by
  rw [step_engine h (congrArg (settle _) hv), settle, tick_of_not_halted v hrun]

/-- An engine that can move stands in a machine that has not stopped. -/
theorem State.EngineTurn.not_halted {s : State} {ts : List Turn} (h : s.EngineTurn ts) : s.halted = false :=
  running_not_halted h.1.1

/-- The unit that an XCHG in S_WAITTX queues (R60). -/
def xchgSent (s : State) : Unit16 := trunc (currentMode s) (trunc s.eng.m s.eng.txunit)

/-- `s` after the push of S_WAITTX (R60). -/
def xchgPushed (s : State) : State :=
  { s with
    xcvr := { s.xcvr with txq := s.xcvr.txq ++ [xchgSent s] }
    xifResp := respWord false 0#16
    eng := { s.eng with phase := .sWaitRx } }

/-- `s` after S_WAITRX has popped `r`, leaving `rest`, and completed (R61, R21). -/
def xchgPopped (r : Unit16) (rest : List Unit16) (s : State) : State :=
  { s with
    xcvr := { s.xcvr with rxq := rest }
    xifResp := respWord false r
    regs := { s.regs with rxdata := trunc s.eng.m r, done := true }
    eng := { s.eng with phase := .idle } }

section Phases

variable {s : State} {ts : List Turn}

theorem engineStep_sWaitTx (hph : s.eng.phase = .sWaitTx) : engineStep s = stepSWaitTx s := by
  simp only [engineStep, hph]

theorem engineStep_sWaitRx (hph : s.eng.phase = .sWaitRx) : engineStep s = stepSWaitRx s := by
  simp only [engineStep, hph]

/-- S_WAITTX polls again while the transmit side is full. -/
theorem step_sWaitTx_of_full (h : s.EngineTurn ts) (hph : s.eng.phase = .sWaitTx) (hf : txfull s = true) :
    step s = .next { s.advance ts with xifResp := respWord true 0#16 } := by
  obtain ⟨-, he⟩ | ⟨hslot, -⟩ := stepSWaitTx_cases (s.setTurns ts)
  · exact step_engine_ok h ((engineStep_sWaitTx (s := s.setTurns ts) hph).trans he) h.not_halted
  · exact absurd (hf.symm.trans hslot) nofun

/-- S_WAITTX pushes into a free slot. -/
theorem step_sWaitTx_of_slot (h : s.EngineTurn ts) (hph : s.eng.phase = .sWaitTx) (hf : txfull s = false) :
    step s = .next ((xchgPushed s).advance ts) := by
  obtain ⟨hfull, -⟩ | ⟨-, he⟩ := stepSWaitTx_cases (s.setTurns ts)
  · exact absurd (hf.symm.trans hfull) nofun
  · exact step_engine_ok h ((engineStep_sWaitTx (s := s.setTurns ts) hph).trans he) h.not_halted

/-- S_WAITRX polls again while nothing has been received. -/
theorem step_sWaitRx_of_nil (h : s.EngineTurn ts) (hph : s.eng.phase = .sWaitRx) (hq : s.xcvr.rxq = []) :
    step s = .next { s.advance ts with xifResp := respWord true 0#16 } := by
  obtain ⟨-, he⟩ | ⟨r, rest, hcons, -⟩ := stepSWaitRx_cases (s.setTurns ts)
  · exact step_engine_ok h ((engineStep_sWaitRx (s := s.setTurns ts) hph).trans he) h.not_halted
  · exact absurd (hq.symm.trans hcons) nofun

/-- S_WAITRX pops the oldest unit and completes. -/
theorem step_sWaitRx_of_cons (h : s.EngineTurn ts) (hph : s.eng.phase = .sWaitRx) {r : Unit16} {rest : List Unit16}
    (hq : s.xcvr.rxq = r :: rest) : step s = .next ((xchgPopped r rest s).advance ts) := by
  obtain ⟨hnil, -⟩ | ⟨r', rest', hcons, he⟩ := stepSWaitRx_cases (s.setTurns ts)
  · exact absurd (hq.symm.trans hnil) nofun
  · obtain ⟨rfl, rfl⟩ := List.cons.inj (hq.symm.trans hcons)
    exact step_engine_ok h ((engineStep_sWaitRx (s := s.setTurns ts) hph).trans he) h.not_halted

end Phases

/-- Settles O17: a poll of a full side is repeated, a poll that sees a slot is followed by the push. -/
theorem xchgPushesWhenNotFull : Obligations.XchgPushesWhenNotFull :=
  fun _ _ h hph => ⟨step_sWaitTx_of_full h hph, step_sWaitTx_of_slot h hph⟩

/-- Settles O18: a poll of an empty side is repeated, a poll that sees a unit is followed by the pop and completion. -/
theorem xchgPopsAndCompletes : Obligations.XchgPopsAndCompletes :=
  fun _ _ h hph => ⟨step_sWaitRx_of_nil h hph, fun _ _ hq => step_sWaitRx_of_cons h hph hq⟩

/-! ### The transceiver's turns (R85, R86) -/

/-- `s` after a LOAD of `u` that leaves `rest` in the transmit queue (R85). -/
def loaded (u : Unit16) (rest : List Unit16) (s : State) : State :=
  { s with xcvr := { s.xcvr with txq := rest, sr := some u } }

/-- `s` after a SHIFT of `u` (R86). -/
def shifted (u : Unit16) (s : State) : State :=
  { s with
    xcvr := { s.xcvr with sr := none, rxq := s.xcvr.rxq ++ [trunc (currentMode s) (peerAnswer s.stepNo u s.peer).1] }
    peer := (peerAnswer s.stepNo u s.peer).2 }

/-- A turn that answers `v` without stopping the machine, with the turn used up and the step counted. -/
theorem step_turn_ok {s v : State} {tn : Turn} {ts : List Turn} (h : s.NextTurn tn ts) (hr : tn ≠ .reset)
    (hv : runTurn tn (s.setTurns ts) = .next v) (hrun : v.halted = false) :
    step s = .next { v with stepNo := v.stepNo + 1 } := by
  rw [step_turn h hr, hv, onNext, tick_of_not_halted v hrun]

section TransceiverTurns

variable {s : State} {ts : List Turn} {u : Unit16}

/-- The oldest unit moves into a free shift register. -/
theorem step_load_of_cons {rest : List Unit16} (h : s.NextTurn .load ts) (hsr : s.xcvr.sr = none)
    (hq : s.xcvr.txq = u :: rest) : step s = .next ((loaded u rest s).advance ts) := by
  have hload : runTurn .load (s.setTurns ts) = .next (loaded u rest (s.setTurns ts)) := by
    simp only [runTurn, loadStep, setTurns_xcvr, hsr, hq, loaded]
  exact step_turn_ok h nofun hload (running_not_halted h.1)

/-- The unit of the shift register is exchanged where the receive side has room. -/
theorem step_shift_of_room (h : s.NextTurn .shift ts) (hsr : s.xcvr.sr = some u) (hf : rxfull s = false) :
    step s = .next ((shifted u s).advance ts) := by
  have hroom : rxfull (s.setTurns ts) = false := hf
  have hshift : runTurn .shift (s.setTurns ts) = .next (shifted u (s.setTurns ts)) := by
    simp only [runTurn, shiftStep, setTurns_xcvr, hsr, hroom]
    rfl
  exact step_turn_ok h nofun hshift (running_not_halted h.1)

end TransceiverTurns

/-! ### A whole exchange (R62) -/

/-- A run takes the first step and goes on from there. -/
theorem run_succ {M : Host.Core} {s t : M.State} (h : M.step s = .next t) (k : Nat) : M.run (k + 1) s = M.run k t := by
  rw [Host.Core.run, h]

/-- With admitted parameters an empty transmit side is not full (R6). -/
theorem txfull_of_nil {s : State} (hp : paramsAdmitted s.params = true) (hq : s.xcvr.txq = []) : txfull s = false := by
  obtain ⟨hlow, -, hdepth⟩ := (paramsAdmitted_iff s.params).1 hp
  have hd := (hdepth (currentMode s)).1
  rw [txfull_eq_false, hq, List.length_nil]
  omega

/-- With admitted parameters an empty receive side has room (R6). -/
theorem rxfull_of_nil {s : State} (hp : paramsAdmitted s.params = true) (hq : s.xcvr.rxq = []) : rxfull s = false := by
  obtain ⟨hlow, -, hdepth⟩ := (paramsAdmitted_iff s.params).1 hp
  have hd := (hdepth (currentMode s)).2
  rw [rxfull_eq_false, hq, List.length_nil]
  omega

/-- The peer's answer to the unit of an XCHG, and the peer afterwards, when its SHIFT is the third step from `s`
(R87). -/
def xchgAnswer (s : State) : Unit16 × Peer := peerAnswer (s.stepNo + 2) (xchgSent s) s.peer

/-- `s` after the push of an exchange, the turns `ts` being left after it. -/
def xchgQueued (ts : List Turn) (s : State) : State := (xchgPushed s).advance (.load :: .shift :: .engine :: ts)

/-- Then after the LOAD. -/
def xchgLoaded (ts : List Turn) (s : State) : State :=
  (loaded (xchgSent s) [] (xchgQueued ts s)).advance (.shift :: .engine :: ts)

/-- Then after the SHIFT. -/
def xchgShifted (ts : List Turn) (s : State) : State :=
  (shifted (xchgSent s) (xchgLoaded ts s)).advance (.engine :: ts)

/-- `s` after a whole exchange, the turns `ts` being left. -/
def xchgExchanged (ts : List Turn) (s : State) : State :=
  { s with
    xcvr := Transceiver.reset
    xifResp := respWord false (trunc (currentMode s) (xchgAnswer s).1)
    regs := { s.regs with rxdata := trunc s.eng.m (trunc (currentMode s) (xchgAnswer s).1), done := true }
    eng := { s.eng with phase := .idle }
    peer := (xchgAnswer s).2
    turns := ts
    stepNo := s.stepNo + 4 }

/-- From S_WAITTX on a quiescent transceiver, the push, the LOAD, the SHIFT and the pop are a whole exchange. -/
theorem run_xchg {s : State} {ts : List Turn} (hrun : s.Running) (hq : s.Quiescent) (hk : s.stuck = false)
    (hph : s.eng.phase = .sWaitTx) (hts : s.turns = .engine :: .load :: .shift :: .engine :: ts) :
    Sys2Proof.core.run 4 s = .next (xchgExchanged ts s) := by
  obtain ⟨htxq, hsr, hrxq⟩ := hq
  have hadm : paramsAdmitted s.params = true := hrun.2.2
  have hturn : s.EngineTurn (.load :: .shift :: .engine :: ts) :=
    ⟨⟨hrun, nextTurn_cons hts, congrArg List.tail hts⟩, hk, busy_eq_true.2 (by simp [hph])⟩
  have hpush : step s = .next (xchgQueued ts s) := step_sWaitTx_of_slot hturn hph (txfull_of_nil hadm htxq)
  have hqueued : (xchgQueued ts s).xcvr.txq = [xchgSent s] := congrArg (· ++ [xchgSent s]) htxq
  have hload : step (xchgQueued ts s) = .next (xchgLoaded ts s) := step_load_of_cons ⟨hrun, rfl, rfl⟩ hsr hqueued
  have hshift : step (xchgLoaded ts s) = .next (xchgShifted ts s) :=
    step_shift_of_room ⟨hrun, rfl, rfl⟩ rfl (rxfull_of_nil hadm hrxq)
  have hreceived : (xchgShifted ts s).xcvr.rxq = [trunc (currentMode s) (xchgAnswer s).1] := congrArg (· ++ [_]) hrxq
  have hpop : step (xchgShifted ts s) = .next (xchgExchanged ts s) :=
    step_sWaitRx_of_cons (s := xchgShifted ts s) ⟨⟨hrun, rfl, rfl⟩, hk, rfl⟩ rfl hreceived
  calc Sys2Proof.core.run 4 s
    _ = Sys2Proof.core.run 3 (xchgQueued ts s) := run_succ (M := Sys2Proof.core) hpush 3
    _ = Sys2Proof.core.run 2 (xchgLoaded ts s) := run_succ (M := Sys2Proof.core) hload 2
    _ = Sys2Proof.core.run 1 (xchgShifted ts s) := run_succ (M := Sys2Proof.core) hshift 1
    _ = Sys2Proof.core.run 0 (xchgExchanged ts s) := run_succ (M := Sys2Proof.core) hpop 0
    _ = .next (xchgExchanged ts s) := rfl

/-- In the mode of the command, the unit is truncated once on its way out. -/
theorem xchgSent_of_mode {s : State} (hm : s.eng.m = currentMode s) : xchgSent s = trunc s.eng.m s.eng.txunit := by
  rw [xchgSent, ← hm, trunc_trunc]

/-- In the mode of the command, RXDATA takes the unit the peer returned. -/
theorem xchgExchanged_rxdata {s : State} (ts : List Turn) (hm : s.eng.m = currentMode s) :
    (xchgExchanged ts s).regs.rxdata =
      trunc s.eng.m (peerAnswer (s.stepNo + 2) (trunc s.eng.m s.eng.txunit) s.peer).1 := by
  rw [xchgExchanged, xchgAnswer, xchgSent_of_mode hm, ← hm, trunc_trunc]

/-- Settles O29: the run of the exchange; the mode of a running command is `cfg_mode16`'s (R57), so its truncations
agree. -/
theorem xchgExchangesOneUnit : Obligations.XchgExchangesOneUnit := by
  intro s ts hs hrun hq hk hph hts
  have hmode : s.eng.m = currentMode s := hs.mode (busy_eq_true.2 (by simp [hph]))
  have hrx := xchgExchanged_rxdata ts hmode
  refine ⟨xchgExchanged ts s, run_xchg hrun hq hk hph hts, ⟨rfl, rfl, rfl⟩, rfl, rfl, rfl, rfl, hrx, fun hloop => ?_⟩
  rw [hrx, hloop, peerAnswer, trunc_trunc]

end Sys2Proof.Machine
end

section
/-! PROOFS. The buffered exchange (42_buffered_exchange.md): what a CMD write that runs XBUF does (R63), the engine's
four phases (R64 to R70), what an absent buffer is spared (R66, R68, R69, R75), and how a running command ends (R71,
R72, R107). -/

namespace Sys2Proof.Machine

/-! ### Acceptance (R63) -/

/-- MODE as the bit it is latched from (R16, R54). -/
@[simp] theorem modeBit_currentMode (s : State) : modeBit (currentMode s) = s.cfgMode16 := by
  cases h : s.cfgMode16 <;> simp [currentMode, h, modeBit]

/-- A buffer is misaligned in Width16 only, when it is present and its address is odd (R34). -/
theorem misaligned_iff {txp rxp : Bool} {s : State} : misaligned txp rxp (currentMode s) s = true ↔
    s.cfgMode16 = true ∧
      ((txp = true ∧ s.regs.txaddr.getLsbD 0 = true) ∨ (rxp = true ∧ s.regs.rxaddr.getLsbD 0 = true)) := by
  simp [misaligned]

section Acceptance

variable {txp rxp : Bool} {s : State}

/-- An XBUF of no unit completes as it is accepted. -/
theorem exec_xbuf_of_empty (hb : busy s = false) (hn : unitsOf s.regs.len (currentMode s) = 0#32) :
    exec (.xbuf txp rxp) s = .next { s with
      regs := { s.regs with done := true }, eng := { xbufEngine txp rxp s with phase := .idle } } := by
  rw [exec, execXbuf_idle txp rxp hb, if_pos hn]

/-- An XBUF of some units with a misaligned present buffer is a fault. -/
theorem exec_xbuf_of_misaligned (hb : busy s = false) (hn : unitsOf s.regs.len (currentMode s) ≠ 0#32)
    (ha : misaligned txp rxp (currentMode s) s = true) :
    exec (.xbuf txp rxp) s = .next (raiseFault .misalignedBuffer s) := by
  rw [exec, execXbuf_idle txp rxp hb, if_neg hn, if_pos ha]

/-- An XBUF of some units starts in WAITTX. -/
theorem exec_xbuf_of_aligned (hb : busy s = false) (hn : unitsOf s.regs.len (currentMode s) ≠ 0#32)
    (ha : ¬ misaligned txp rxp (currentMode s) s = true) :
    exec (.xbuf txp rxp) s = .next { s with
      regs := { s.regs with done := false }, eng := { xbufEngine txp rxp s with phase := .waitTx } } := by
  rw [exec, execXbuf_idle txp rxp hb, if_neg hn, if_neg ha]

end Acceptance

/-- Settles O10: the four cases of acceptance, in the order in which they are tested. -/
theorem xbufIsAccepted : Obligations.XbufIsAccepted := by
  intro txp rxp s
  refine ⟨rfl, fun hph => exec_xbuf_of_busy txp rxp (busy_eq_true.2 hph), fun hph hn => ?_, fun hph hn ha => ?_,
    fun hph hn ha => ?_⟩
  · rw [exec_xbuf_of_empty (busy_eq_false.2 hph) hn, xbufEngine, hn]
  · exact exec_xbuf_of_misaligned (busy_eq_false.2 hph) hn (misaligned_iff.2 ha)
  · exact exec_xbuf_of_aligned (busy_eq_false.2 hph) hn (mt misaligned_iff.1 ha)

/-! ### The transmit source and the receive sink (R66, R68) -/

section Buffers

variable {s : State}

/-- The transmit source gives a unit of an admitted read for a present buffer and DUMMY for an absent one. -/
theorem txUnit_eq_some {u : Unit16}
    (hmem : s.eng.txp = true → memAdmit s.params s.eng.txptr s.eng.size .read = true ∧
      u = memRead s.mem s.eng.txptr s.eng.size)
    (hdummy : s.eng.txp = false → u = trunc s.eng.m s.params.dummy) : txUnit s = some u := by
  cases hp : s.eng.txp with
  | true => obtain ⟨ha, rfl⟩ := hmem hp; simp [txUnit, hp, ha]
  | false => rw [hdummy hp]; simp [txUnit, hp]

/-- The transmit source of an absent buffer is DUMMY. -/
theorem txUnit_of_absent (hp : s.eng.txp = false) : txUnit s = some (trunc s.eng.m s.params.dummy) :=
  txUnit_eq_some (fun h => absurd (hp.symm.trans h) nofun) fun _ => rfl

/-- The transmit source gives nothing where the read of a present buffer is refused. -/
theorem txUnit_of_refused (hp : s.eng.txp = true) (ha : memAdmit s.params s.eng.txptr s.eng.size .read = false) :
    txUnit s = none := by simp [txUnit, hp, ha]

variable (r : Unit16)

theorem rxSink_of_absent (hp : s.eng.rxp = false) : rxSink r s = some s := by simp [rxSink, hp]

theorem rxSink_of_admitted (hp : s.eng.rxp = true)
    (ha : memAdmit s.params s.eng.rxptr s.eng.size .write = true) :
    rxSink r s = some { s with
      mem := memWrite s.mem s.eng.rxptr r s.eng.size
      eng := { s.eng with rxptr := nextUnit s.eng.rxptr s.eng.size } } := by simp [rxSink, hp, ha]

theorem rxSink_of_refused (hp : s.eng.rxp = true)
    (ha : memAdmit s.params s.eng.rxptr s.eng.size .write = false) : rxSink r s = none := by simp [rxSink, hp, ha]

end Buffers

/-! ### The engine's four phases (R64, R65, R67, R70) -/

/-- A phase visit that faults records the fault with the turn used up, and counts no step (R94). -/
theorem step_engine_error {s : State} {c : Fault} {ts : List Turn} (h : s.EngineTurn ts)
    (hv : engineStep (s.setTurns ts) = .error c) : step s = .next (raiseFault c (s.setTurns ts)) := by
  rw [step_engine h (congrArg (settle _) hv), settle, tick_of_halted _ (raiseFault_halted _ _)]

section Phases

variable {s : State}

theorem engineStep_waitTx (hph : s.eng.phase = .waitTx) : engineStep s = .ok (stepWaitTx s) := by
  simp only [engineStep, hph]

theorem engineStep_aPush (hph : s.eng.phase = .aPush) : engineStep s = stepAPush s := by
  simp only [engineStep, hph]

theorem engineStep_aPop (hph : s.eng.phase = .aPop) : engineStep s = stepAPop s := by
  simp only [engineStep, hph]

theorem engineStep_bDrain (hph : s.eng.phase = .bDrain) : engineStep s = stepBDrain s := by
  simp only [engineStep, hph]

/-- The poll of an empty receive side. -/
theorem pollRxempty_of_nil (hq : s.xcvr.rxq = []) : pollRxempty s = { s with xifResp := respWord true 0#16 } := by
  rw [pollRxempty, rxempty_eq_true.2 hq]; rfl

end Phases

/-- Settles O19: the poll of WAITTX sees a full side or a slot. -/
theorem xbufWaitsForASlot : Obligations.XbufWaitsForASlot := by
  intro s ts h hph
  have hstep := engineStep_waitTx (s := s.setTurns ts) hph
  obtain ⟨hfull, he⟩ | ⟨hslot, he⟩ := stepWaitTx_cases (s.setTurns ts) <;> rw [he] at hstep
  · exact ⟨fun _ => step_engine_ok h hstep h.not_halted, fun hf => absurd (hf.symm.trans hfull) nofun⟩
  · exact ⟨fun hf => absurd (hf.symm.trans hslot) nofun, fun _ => step_engine_ok h hstep h.not_halted⟩

section Push

variable {s : State}

/-- A_PUSH with every unit sent goes to B_DRAIN. -/
theorem stepAPush_of_sent (hn : s.eng.sent = s.eng.count) : stepAPush s = .ok (s.setPhase .bDrain) := if_pos hn

/-- A_PUSH at the cap goes on to A_POP. -/
theorem stepAPush_of_capped (hn : s.eng.sent ≠ s.eng.count) (hl : s.params.fifoLimit ≤ s.eng.inflight.toNat) :
    stepAPush s = .ok (s.setPhase .aPop) := by
  rw [stepAPush, if_neg hn, if_neg (Nat.not_lt.2 hl)]

variable (hn : s.eng.sent ≠ s.eng.count) (hl : s.eng.inflight.toNat < s.params.fifoLimit)
include hn hl

/-- A_PUSH under the cap is stuck at a refused read. -/
theorem stepAPush_of_refused (hu : txUnit s = none) : stepAPush s = .ok s.setStuck := by
  simp only [stepAPush, if_neg hn, if_pos hl, hu]

/-- A_PUSH under the cap with the transmit side full is a fault. -/
theorem stepAPush_of_full {u : Unit16} (hu : txUnit s = some u) (hf : txfull s = true) :
    stepAPush s = .error .txWriteWhenFull := by
  simp only [stepAPush, if_neg hn, if_pos hl, hu, writeUnit, if_pos hf]

/-- A_PUSH under the cap pushes its unit into a free slot. -/
theorem stepAPush_of_slot {u : Unit16} (hu : txUnit s = some u) (hf : txfull s = false) :
    stepAPush s = .ok { s with
      xcvr := { s.xcvr with txq := s.xcvr.txq ++ [trunc (currentMode s) u] }
      xifResp := respWord false 0#16
      eng := { s.eng with txptr := txptrAfterPush s.eng, sent := s.eng.sent + 1#32,
                          inflight := s.eng.inflight + 1#8, phase := .aPop } } := by
  simp only [stepAPush, if_neg hn, if_pos hl, hu, writeUnit, hf]
  rfl

end Push

/-- Settles O20: the loop test, the cap, the transmit source and the slot, in the order in which A_PUSH tests them. -/
theorem xbufPushesUnderTheCap : Obligations.XbufPushesUnderTheCap := by
  intro s ts h hph
  have hstep := engineStep_aPush (s := s.setTurns ts) hph
  refine ⟨fun hn => ?_, fun hn hl => ?_, fun hn hl => ⟨fun hp ha => ?_, fun u hmem hdummy => ?_⟩⟩
  · exact step_engine_ok h (hstep.trans (stepAPush_of_sent hn)) h.not_halted
  · exact step_engine_ok h (hstep.trans (stepAPush_of_capped hn hl)) h.not_halted
  · exact step_engine_ok h (hstep.trans (stepAPush_of_refused hn hl (txUnit_of_refused hp ha))) h.not_halted
  · have hu : txUnit (s.setTurns ts) = some u := txUnit_eq_some hmem hdummy
    exact ⟨fun hf => step_engine_error h (hstep.trans (stepAPush_of_full hn hl hu hf)),
      fun hf => step_engine_ok h (hstep.trans (stepAPush_of_slot (s := s.setTurns ts) hn hl hu hf)) h.not_halted⟩

/-! ### One pop (R67, R68, R70) -/

/-- `s` after a READ_UNIT that has answered `r` and left `rest` in the receive queue (R84). -/
def unitRead (r : Unit16) (rest : List Unit16) (s : State) : State :=
  { s with xcvr := { s.xcvr with rxq := rest }, xifResp := respWord false r }

@[simp] theorem unitRead_eng (r : Unit16) (rest : List Unit16) (s : State) : (unitRead r rest s).eng = s.eng := rfl

@[simp] theorem respData_unitRead (r : Unit16) (rest : List Unit16) (s : State) :
    respData (unitRead r rest s).xifResp = r := respData_respWord ..

section Pop

variable {s : State} {r : Unit16} {rest : List Unit16} (hq : s.xcvr.rxq = r :: rest) (after : Phase)
include hq

/-- After the poll, READ_UNIT's response alone is left on the port (log entry 9). -/
theorem readUnit_pollRxempty (w : Bool) : readUnit w (pollRxempty s) = .ok (unitRead r rest s) := readUnit_cons w hq

/-- A pop whose unit the receive sink takes. -/
theorem popOne_of_taken {v : State} (hv : rxSink (trunc s.eng.m r) (unitRead r rest s) = some v) :
    popOne after s = .ok ((countPop v).setPhase after) := by
  simp only [popOne, readUnit_pollRxempty hq, unitRead_eng, respData_unitRead, hv]

/-- A pop whose write is refused: the unit is lost and the engine stuck. -/
theorem popOne_of_refused (hv : rxSink (trunc s.eng.m r) (unitRead r rest s) = none) :
    popOne after s = .ok (unitRead r rest s).setStuck := by
  simp only [popOne, readUnit_pollRxempty hq, unitRead_eng, respData_unitRead, hv]

/-- A_POP with units in flight pops one. -/
theorem stepAPop_of_cons (hi : s.eng.inflight ≠ 0#8) : stepAPop s = popOne .aPush s := by
  have hf : rxempty s = false := rxempty_eq_false.2 (by simp [hq])
  simp [stepAPop, hf, hi]

/-- B_DRAIN with units in flight pops one. -/
theorem stepBDrain_of_cons (hi : s.eng.inflight ≠ 0#8) : stepBDrain s = popOne .bDrain s := by
  have hf : rxempty s = false := rxempty_eq_false.2 (by simp [hq])
  simp [stepBDrain, hf, hi]

end Pop

section PopStep

variable {s : State} {ts : List Turn} {r : Unit16} {rest : List Unit16} {after : Phase} (h : s.EngineTurn ts)
  (hq : s.xcvr.rxq = r :: rest) (hpop : engineStep (s.setTurns ts) = popOne after (s.setTurns ts))
include h hq hpop

/-- A step that pops a unit for an absent buffer discards it. -/
theorem step_pop_of_absent (hp : s.eng.rxp = false) : step s = .next { s.advance ts with
    xcvr := { s.xcvr with rxq := rest }, xifResp := respWord false r
    eng := { s.eng with inflight := s.eng.inflight - 1#8, phase := after } } :=
  step_engine_ok h (hpop.trans (popOne_of_taken (s := s.setTurns ts) hq after (rxSink_of_absent _ hp))) h.not_halted

/-- A step that pops a unit for a present buffer writes it at the receive pointer where that is admitted. -/
theorem step_pop_of_admitted (hp : s.eng.rxp = true)
    (ha : memAdmit s.params s.eng.rxptr s.eng.size .write = true) : step s = .next { s.advance ts with
      xcvr := { s.xcvr with rxq := rest }, xifResp := respWord false r
      mem := memWrite s.mem s.eng.rxptr (trunc s.eng.m r) s.eng.size
      eng := { s.eng with rxptr := nextUnit s.eng.rxptr s.eng.size, inflight := s.eng.inflight - 1#8,
                          phase := after } } :=
  step_engine_ok h (hpop.trans (popOne_of_taken (s := s.setTurns ts) hq after (rxSink_of_admitted _ hp ha)))
    h.not_halted

/-- A step that pops a unit whose write is refused loses it and is stuck before the decrement (log entry 7). -/
theorem step_pop_of_refused (hp : s.eng.rxp = true)
    (ha : memAdmit s.params s.eng.rxptr s.eng.size .write = false) : step s = .next { s.advance ts with
      xcvr := { s.xcvr with rxq := rest }, xifResp := respWord false r, stuck := true } :=
  step_engine_ok h (hpop.trans (popOne_of_refused (s := s.setTurns ts) hq after (rxSink_of_refused _ hp ha)))
    h.not_halted

end PopStep

/-- A_POP with nothing received goes back to A_PUSH. -/
theorem stepAPop_of_nil {s : State} (hq : s.xcvr.rxq = []) :
    stepAPop s = .ok { s with xifResp := respWord true 0#16, eng := { s.eng with phase := .aPush } } := by
  simp only [stepAPop, pollRxempty_of_nil hq, respFlag_respWord, if_true]
  rfl

/-- A_POP with a unit received and none in flight is a fault. -/
theorem stepAPop_of_underflow {s : State} (hq : s.xcvr.rxq ≠ []) (hi : s.eng.inflight = 0#8) :
    stepAPop s = .error .inflightUnderflow := by
  simp [stepAPop, rxempty_eq_false.2 hq, hi]

/-- Settles O21: A_POP polls, tests the count and pops. -/
theorem xbufPopsOnEveryIteration : Obligations.XbufPopsOnEveryIteration := by
  intro s ts h hph
  have hstep := engineStep_aPop (s := s.setTurns ts) hph
  refine ⟨fun hq => ?_, fun hq hi => ?_, fun r rest hq hi => ?_⟩
  · exact step_engine_ok h (hstep.trans (stepAPop_of_nil hq)) h.not_halted
  · exact step_engine_error h (hstep.trans (stepAPop_of_underflow hq hi))
  · have hpop := hstep.trans (stepAPop_of_cons (s := s.setTurns ts) hq hi)
    exact ⟨step_pop_of_absent h hq hpop, step_pop_of_admitted h hq hpop, step_pop_of_refused h hq hpop⟩

/-- B_DRAIN with nothing in flight completes. -/
theorem stepBDrain_of_drained {s : State} (hi : s.eng.inflight = 0#8) : stepBDrain s = .ok s.complete := if_pos hi

/-- B_DRAIN with units in flight and none received polls again. -/
theorem stepBDrain_of_nil {s : State} (hi : s.eng.inflight ≠ 0#8) (hq : s.xcvr.rxq = []) :
    stepBDrain s = .ok { s with xifResp := respWord true 0#16 } := by
  simp only [stepBDrain, if_neg hi, pollRxempty_of_nil hq, respFlag_respWord, if_true]

/-- Settles O22: B_DRAIN tests the count, polls and pops, and a pop leaves its phase as it is. -/
theorem xbufDrainsTheTail : Obligations.XbufDrainsTheTail := by
  intro s ts h hph
  have hstep := engineStep_bDrain (s := s.setTurns ts) hph
  refine ⟨fun hi => ?_, fun hi hq => ?_, fun r rest hi hq => ?_⟩
  · exact step_engine_ok h (hstep.trans (stepBDrain_of_drained hi)) h.not_halted
  · exact step_engine_ok h (hstep.trans (stepBDrain_of_nil hi hq)) h.not_halted
  · have hpop := hstep.trans (stepBDrain_of_cons (s := s.setTurns ts) hq hi)
    rw [← hph] at hpop
    exact ⟨step_pop_of_absent h hq hpop, step_pop_of_admitted h hq hpop, step_pop_of_refused h hq hpop⟩

/-! ### Absent buffers (R66, R68, R69, R75) -/

/-- From `s` to `t` the engine has left buffer memory and the receive pointer alone, and no refused write holds it. -/
structure SparesRx (s t : State) : Prop where
  mem   : t.mem = s.mem
  rxptr : t.eng.rxptr = s.eng.rxptr
  free  : s.eng.phase = .aPop ∨ s.eng.phase = .bDrain → t.stuck = s.stuck

/-- An engine step spares an absent receive buffer: a pop discards its unit. -/
theorem EngineEffect.sparesRx {s t : State} (h : EngineEffect s t) (hp : s.eng.rxp = false) : SparesRx s t := by
  cases h with
  | writeRefused r rest hph hi hq hpresent => exact absurd (hp.symm.trans hpresent) nofun
  | popStored after r rest hph hi hq hpresent => exact absurd (hp.symm.trans hpresent) nofun
  | readRefused hph => exact ⟨rfl, rfl, by simp [hph]⟩
  | _ => exact ⟨rfl, rfl, fun _ => rfl⟩

/-- From `s` to `t` the engine has left the transmit pointer alone, no refused read holds it, and it has pushed DUMMY or
nothing. -/
structure SparesTx (s t : State) : Prop where
  txptr : t.eng.txptr = s.eng.txptr
  free  : s.eng.phase = .aPush → t.stuck = s.stuck
  txq   : t.xcvr.txq = s.xcvr.txq ∨
    t.xcvr.txq = s.xcvr.txq ++ [trunc (currentMode s) (trunc s.eng.m s.params.dummy)]

/-- A step of a buffered exchange spares an absent transmit buffer: a push sends DUMMY. -/
theorem EngineEffect.sparesTx {s t : State} (h : EngineEffect s t) (hx : inXbuf s.eng.phase = true)
    (hp : s.eng.txp = false) : SparesTx s t := by
  cases h with
  | readRefused hph hn hl hu => exact absurd (hu.symm.trans (txUnit_of_absent hp)) nofun
  | push u hph hn hl hu =>
    obtain rfl : u = trunc s.eng.m s.params.dummy := Option.some.inj (hu.symm.trans (txUnit_of_absent hp))
    exact ⟨by simp [txptrAfterPush, hp], fun _ => rfl, .inr rfl⟩
  | writeRefused r rest hph => exact ⟨rfl, by obtain hph | hph := hph <;> simp [hph], .inl rfl⟩
  | xchgPush hph => exact absurd hx (by simp [hph, inXbuf])
  | _ => exact ⟨rfl, fun _ => rfl, .inl rfl⟩

/-- Settles O24: every step of a buffered exchange spares an absent buffer, and a fault touches neither. -/
theorem absentBufferTouchesNoMemory : Obligations.AbsentBufferTouchesNoMemory := by
  intro s t ts h hx hst
  have hfree : s.stuck = false := h.2.1
  obtain ⟨v, rfl, heff | ⟨c, rfl⟩⟩ := step_engineEffect h hst
  · rw [tick_mem, tick_eng, tick_stuck, tick_xcvr]
    refine ⟨fun hp => ?_, fun hp => ?_⟩
    · obtain ⟨hmem, hptr, hstuck⟩ := heff.sparesRx hp
      exact ⟨fun a => by rw [hmem]; rfl, hptr, fun hph => (hstuck hph).trans hfree⟩
    · obtain ⟨hptr, hstuck, hq⟩ := heff.sparesTx hx hp
      exact ⟨hptr, fun hph => (hstuck hph).trans hfree, hq⟩
  · simp [hfree]

/-! ### The end of a command (R71, R72, R107) -/

/-- A step of a running engine that ends the command is the completion of B_DRAIN or of S_WAITRX. -/
theorem EngineEffect.completes {s t : State} (h : EngineEffect s t) (hb : busy s = true) (ht : busy t = false) :
    (s.eng.phase = .bDrain ∧ s.eng.inflight = 0#8 ∧ t = s.complete) ∨
    (s.eng.phase = .sWaitRx ∧ t.regs.done = true) := by
  cases h with
  | drained hph hi => exact .inl ⟨hph, hi, rfl⟩
  | xchgDone r rest hph => exact .inr ⟨hph, rfl⟩
  | popStored after r rest hph => obtain ⟨-, rfl⟩ | ⟨-, rfl⟩ := hph <;> cases ht
  | popDiscarded after r rest hph => obtain ⟨-, rfl⟩ | ⟨-, rfl⟩ := hph <;> cases ht
  | wait => exact absurd (hb.symm.trans ht) nofun
  | readRefused => exact absurd (hb.symm.trans ht) nofun
  | writeRefused => exact absurd (hb.symm.trans ht) nofun
  | _ => cases ht

/-- Of all turns but a reset, only the engine's own ends a running command. -/
theorem TurnEffect.engineEffect_of_ends {s t : State} {tn : Turn} (h : TurnEffect s tn t) (hr : tn ≠ .reset)
    (hb : busy s = true) (ht : busy t = false) : EngineEffect s t := by
  cases h with
  | host hhost =>
    have hsame : busy t = busy s := busy_congr (congrArg Engine.phase (hhost.commandStands hb).eng)
    exact absurd (hb.symm.trans (hsame.symm.trans ht)) nofun
  | engine _ _ hstep => exact engineStep_effect hb hstep
  | reset => exact absurd rfl hr
  | request hidle => exact absurd (hidle.symm.trans hb) nofun
  | _ => exact absurd (hb.symm.trans ht) nofun

/-- Settles O27: of all that a step can do, only a reset and a completion end a command. -/
theorem onlyCompletionOrResetEndsACommand : Obligations.OnlyCompletionOrResetEndsACommand := by
  intro s t hb hst ht
  obtain ⟨ts, hts, -⟩ | ⟨-, -, -, rfl⟩ | ⟨-, -, rfl⟩ | ⟨-, tn, v, -, hr, heff, rfl⟩ := step_cases hst
  · exact .inl ⟨ts, hts⟩
  · exact absurd (hb.symm.trans ht) nofun
  · exact absurd (hb.symm.trans ht) nofun
  · have hidle : busy v = false := (busy_congr (by rw [tick_eng])).symm.trans ht
    have hend := heff.engineEffect_of_ends hr hb hidle
    rw [tick_regs, tick_faults]
    refine .inr ⟨?_, hend.frame.faults⟩
    obtain ⟨-, -, rfl⟩ | ⟨-, hdone⟩ := hend.completes hb hidle
    · rfl
    · exact hdone

/-- Settles O28: a buffered exchange ends in B_DRAIN, which is entered with every unit sent and left with none in
flight. -/
theorem xbufCompletesWithEveryUnitSent : Obligations.XbufCompletesWithEveryUnitSent := by
  intro s t ts hs h hx hst ht
  obtain ⟨v, rfl, heff | ⟨c, rfl⟩⟩ := step_engineEffect h hst
  · have hidle : busy v = false := (busy_congr (by rw [tick_eng])).symm.trans ht
    obtain ⟨hph, hi, rfl⟩ | ⟨hph, -⟩ := heff.completes h.2.2 hidle
    · have hsent : s.eng.sent = s.eng.count := hs.engine.allSent hph
      rw [readReg, tick_eng]
      exact ⟨hsent, hi, hsent⟩
    · exact absurd hx (by simp [show s.eng.phase = .sWaitRx from hph, inXbuf])
  · have hsame : busy (raiseFault c (s.setTurns ts)).tick = busy s := busy_congr (by simp)
    exact absurd (h.2.2.symm.trans (hsame.symm.trans ht)) nofun

end Sys2Proof.Machine
end

section
/-! PROOFS. The wrappers (43_wrappers.md): refused in Width16, and in Width8 done as their expansions (R53, R76, R77). -/

namespace Sys2Proof.Machine

/-- A wrapper in Width16 is refused: it stays the host's next operation, and its step is not counted (R76, R77). -/
theorem step_wrapper_width16 {s : State} {op : HostOp} {rest : List HostOp} {ts : List Turn}
    (h : s.HostTurn op rest ts) (hw : isWrapper op = true) (h16 : s.cfgMode16 = true) :
    step s = .next (refuse .wrapperInWidth16 (s.setTurns ts)) := by
  have hmove : hostMove op rest (s.setTurns ts) = .next (refuse .wrapperInWidth16 (s.setTurns ts)) :=
    if_pos (by simp [hw, setTurns_cfgMode16, h16])
  simp only [step_turn h.1 nofun, runTurn, setTurns_hostProg, h.2, hmove, onNext, tick_of_halted _ (refuse_halted _ _)]

/-- A wrapper in Width8 is admitted, as every operation is (R76, R77). -/
theorem admitted_of_width8 {s : State} (op : HostOp) (h8 : s.cfgMode16 = false) :
    (isWrapper op && s.cfgMode16) = false := by rw [h8, Bool.and_false]

/-- A byte written to TXDATA as a word is kept with its upper byte clear. -/
theorem writeReg_txdata_byte (b : Byte) (s : State) :
    (writeReg .txdata (b.setWidth 32) s).regs = { s.regs with txdata := b.setWidth 16 } := by
  have hlow : (b.setWidth 32).extractLsb' 0 16 = b.setWidth 16 := by
    rw [← BitVec.setWidth_eq_extractLsb' (by omega), BitVec.setWidth_setWidth_of_le b (by omega)]
  rw [← hlow]; rfl

/-- A low-byte load at the address of a register gives the host that register's low byte (R76). -/
theorem step_loadLow8_register {s : State} {r : HostReg} {x : Nat} {rest : List HostOp} {ts : List Turn}
    (h : s.HostTurn (.loadLow8 (regAddr s.params r) x) rest ts) :
    step s = .next { s.advance ts with
      hostProg := rest, hostVars := setVar x (((readReg s r).extractLsb' 0 8).setWidth 32) s.hostVars } := by
  have hl : hostLoadLow8 (regAddr s.params r) x (s.setTurns ts) =
      (s.setTurns ts).assign x (((readReg s r).extractLsb' 0 8).setWidth 32) := by
    simp only [hostLoadLow8, setTurns_params, regAt_regAddr, readReg_setTurns]
  rw [step_hostPrim h rfl rfl, hostPrim, hl, onNext, popProg_tick_of_not_halted rest (by simp [h.not_halted])]; rfl

/-- The low byte of RXDATA as read is the low byte of the unit it holds (R15). -/
theorem extract_low_readReg_rxdata (s : State) :
    (readReg s .rxdata).extractLsb' 0 8 = s.regs.rxdata.extractLsb' 0 8 := by
  rw [readReg, ← BitVec.setWidth_eq_extractLsb' (by omega), ← BitVec.setWidth_eq_extractLsb' (by omega),
    BitVec.setWidth_setWidth_of_le _ (by omega)]

/-- Settles O40: each expansion begins with the write of an operand register, which of them depends on the buffers
present. -/
theorem wrappersExpandInWidth8Only : Obligations.WrappersExpandInWidth8Only := by
  refine ⟨?refused, ?exchange, ?lowByte, ?buffers⟩
  case refused =>
    rintro s op rest ts (⟨b, x, rfl⟩ | ⟨tx, n, rx, x, rfl⟩) h h16
    · exact step_wrapper_width16 h rfl h16
    · exact step_wrapper_width16 h rfl h16
  case exchange =>
    intro s b x rest ts h h8
    rw [← writeReg_txdata_byte]
    exact step_expansion h (admitted_of_width8 _ h8) rfl nofun
  case lowByte =>
    intro s x rest ts h
    rw [← extract_low_readReg_rxdata]
    exact step_loadLow8_register h
  case buffers =>
    intro s tx rx n x rest ts h h8
    have hadm := admitted_of_width8 (.exchangeBuffer8bit tx n rx x) h8
    refine ⟨?_, ?_, ?_, ?_⟩
    · rintro a b rfl rfl
      rw [← show cmdWord (.xbuf true true) = 0x0E#32 from cmdWord_xbuf true true]
      exact step_expansion h hadm rfl nofun
    · rintro a rfl rfl
      rw [← show cmdWord (.xbuf true false) = 0x06#32 from cmdWord_xbuf true false]
      exact step_expansion h hadm rfl nofun
    · rintro b rfl rfl
      rw [← show cmdWord (.xbuf false true) = 0x0A#32 from cmdWord_xbuf false true]
      exact step_expansion h hadm rfl nofun
    · rintro rfl rfl
      rw [← show cmdWord (.xbuf false false) = 0x02#32 from cmdWord_xbuf false false]
      exact step_expansion h hadm rfl nofun

end Sys2Proof.Machine
end

section
/-! PROOFS. The transceiver interface (44_transceiver_interface.md): the four transactions and what they leave unchanged
(R81 to R84), LOAD and SHIFT (R85, R86), who uses the transceiver (R79, R90), the order of its units with the loopback
peer (R88, R89), and whose turn is next (R79, R105, R111). -/

namespace Sys2Proof.Machine

/-! ### The transactions (R81 to R84) -/

/-- POLL_TXFULL answers the flag. -/
theorem exec_pollTxfull (s : State) : exec .pollTxfull s = .next { s with xifResp := respWord (txfull s) 0#16 } := rfl

/-- POLL_RXEMPTY answers the flag. -/
theorem exec_pollRxempty (s : State) :
    exec .pollRxempty s = .next { s with xifResp := respWord (rxempty s) 0#16 } := rfl

section Transactions

variable {s : State}

/-- WRITE_UNIT takes a free slot. -/
theorem exec_writeUnit_of_slot (w16 : Bool) (wdata : Unit16) (hf : txfull s = false) :
    exec (.writeUnit w16 wdata) s = .next { s with
      xcvr := { s.xcvr with txq := s.xcvr.txq ++ [trunc (currentMode s) wdata] }, xifResp := respWord false 0#16 } := by
  rw [exec, execWriteUnit, writeUnit_eq, hf]; rfl

/-- WRITE_UNIT to a full side is a fault. -/
theorem exec_writeUnit_of_full (w16 : Bool) (wdata : Unit16) (hf : txfull s = true) :
    exec (.writeUnit w16 wdata) s = .next (raiseFault .txWriteWhenFull s) := by
  rw [exec, execWriteUnit, writeUnit_eq, hf]; rfl

/-- READ_UNIT takes the oldest unit. -/
theorem exec_readUnit_of_cons (w16 : Bool) {r : Unit16} {rest : List Unit16} (hq : s.xcvr.rxq = r :: rest) :
    exec (.readUnit w16) s = .next (unitRead r rest s) := by
  rw [exec, execReadUnit, readUnit_cons w16 hq]; rfl

/-- READ_UNIT of an empty side is a fault. -/
theorem exec_readUnit_of_nil (w16 : Bool) (hq : s.xcvr.rxq = []) :
    exec (.readUnit w16) s = .next (raiseFault .rxReadWhenEmpty s) := by
  rw [exec, execReadUnit, readUnit_nil w16 hq]; rfl

/-- The transmit side is full when its queue is as long as its depth (R25). -/
theorem txfull_eq_true : txfull s = true ↔ s.xcvr.txq.length = txDepth s.params (currentMode s) := by
  simp [txfull]

end Transactions

/-- Settles O11: FLAG is transmit-full. -/
theorem pollTxfullAnswers : Obligations.PollTxfullAnswers := by
  refine ⟨rfl, fun s => ⟨fun h => ?_, fun h => ?_⟩⟩
  · rw [exec_pollTxfull, txfull_eq_true.2 h]; rfl
  · rw [exec_pollTxfull, txfull_eq_false.2 h]; rfl

/-- Settles O12: FLAG is receive-empty. -/
theorem pollRxemptyAnswers : Obligations.PollRxemptyAnswers := by
  refine ⟨rfl, fun s => ⟨fun h => ?_, fun h => ?_⟩⟩
  · rw [exec_pollRxempty, rxempty_eq_true.2 h]; rfl
  · rw [exec_pollRxempty, rxempty_eq_false.2 h]; rfl

/-- Settles O13: a slot is taken, and where there is none the write faults. -/
theorem writeUnitQueues : Obligations.WriteUnitQueues :=
  fun w16 wdata => ⟨rfl, fun _ =>
    ⟨fun h => exec_writeUnit_of_slot w16 wdata (txfull_eq_false.2 h),
      fun h => exec_writeUnit_of_full w16 wdata (txfull_eq_true.2 h)⟩⟩

/-- Settles O14: the oldest unit is taken, and where there is none the read faults. -/
theorem readUnitTakesTheOldest : Obligations.ReadUnitTakesTheOldest :=
  fun w16 => ⟨rfl, fun _ => ⟨fun _ _ hq => exec_readUnit_of_cons w16 hq, exec_readUnit_of_nil w16⟩⟩

/-- What a transaction can do (R81 to R84): answer a flag, queue a unit, take one, or fault. -/
inductive TransactionEffect (s : State) : Instr → State → Prop
  | pollTxfull : TransactionEffect s .pollTxfull { s with xifResp := respWord (txfull s) 0#16 }
  | pollRxempty : TransactionEffect s .pollRxempty { s with xifResp := respWord (rxempty s) 0#16 }
  | queued (w16 : Bool) (wdata : Unit16) (hf : txfull s = false) : TransactionEffect s (.writeUnit w16 wdata) { s with
      xcvr := { s.xcvr with txq := s.xcvr.txq ++ [trunc (currentMode s) wdata] }, xifResp := respWord false 0#16 }
  | full (w16 : Bool) (wdata : Unit16) (hf : txfull s = true) :
      TransactionEffect s (.writeUnit w16 wdata) (raiseFault .txWriteWhenFull s)
  | taken (w16 : Bool) (r : Unit16) (rest : List Unit16) (hq : s.xcvr.rxq = r :: rest) :
      TransactionEffect s (.readUnit w16) (unitRead r rest s)
  | empty (w16 : Bool) (hq : s.xcvr.rxq = []) :
      TransactionEffect s (.readUnit w16) (raiseFault .rxReadWhenEmpty s)

theorem exec_writeUnit_effect {w16 : Bool} {wdata : Unit16} {s t : State}
    (h : exec (.writeUnit w16 wdata) s = .next t) : TransactionEffect s (.writeUnit w16 wdata) t := by
  cases hf : txfull s with
  | false => cases (exec_writeUnit_of_slot w16 wdata hf).symm.trans h; exact .queued w16 wdata hf
  | true => cases (exec_writeUnit_of_full w16 wdata hf).symm.trans h; exact .full w16 wdata hf

theorem exec_readUnit_effect {w16 : Bool} {s t : State} (h : exec (.readUnit w16) s = .next t) :
    TransactionEffect s (.readUnit w16) t := by
  cases hq : s.xcvr.rxq with
  | nil => cases (exec_readUnit_of_nil w16 hq).symm.trans h; exact .empty w16 hq
  | cons r rest => cases (exec_readUnit_of_cons w16 hq).symm.trans h; exact .taken w16 r rest hq

namespace TransactionEffect

variable {s t : State} {i : Instr}

/-- A transaction writes the two queues, the response and the fault set at most. -/
theorem eq_update (h : TransactionEffect s i t) : ∃ txq rxq resp faults,
    t = { s with xcvr := { s.xcvr with txq := txq, rxq := rxq }, xifResp := resp, faults := faults } := by
  cases h <;> exact ⟨_, _, _, _, rfl⟩

/-- A poll moves no unit and does not fault. -/
theorem poll_keeps (h : TransactionEffect s i t) (hi : i = .pollTxfull ∨ i = .pollRxempty) :
    t.xcvr = s.xcvr ∧ t.faults = s.faults := by
  obtain rfl | rfl := hi <;> cases h <;> exact ⟨rfl, rfl⟩

/-- WRITE_UNIT leaves the receive queue alone. -/
theorem write_keeps_rxq (h : TransactionEffect s i t) (hi : ∃ w16 wdata, i = .writeUnit w16 wdata) :
    t.xcvr.rxq = s.xcvr.rxq := by
  obtain ⟨w16, wdata, rfl⟩ := hi
  cases h <;> rfl

/-- READ_UNIT leaves the transmit queue alone. -/
theorem read_keeps_txq (h : TransactionEffect s i t) (hi : ∃ w16, i = .readUnit w16) : t.xcvr.txq = s.xcvr.txq := by
  obtain ⟨w16, rfl⟩ := hi
  cases h <;> rfl

end TransactionEffect

/-- Settles O16: whatever the transaction does is an update of the queues, the response and the fault set, and the
clauses about those go by its cases. -/
theorem transactionFrame : Obligations.TransactionFrame := by
  intro i s t hi h
  have heff : TransactionEffect s i t := by
    obtain rfl | rfl | ⟨w16, wdata, rfl⟩ | ⟨w16, rfl⟩ := hi
    · cases (exec_pollTxfull s).symm.trans h; exact .pollTxfull
    · cases (exec_pollRxempty s).symm.trans h; exact .pollRxempty
    · exact exec_writeUnit_effect h
    · exact exec_readUnit_effect h
  have hpoll := heff.poll_keeps
  have hwrite := heff.write_keeps_rxq
  have hread := heff.read_keeps_txq
  obtain ⟨txq, rxq, resp, faults, rfl⟩ := heff.eq_update
  exact ⟨fun _ => rfl, rfl, rfl, rfl, rfl, rfl, rfl, rfl, rfl, rfl, rfl, rfl, rfl, rfl, hpoll, hwrite, hread⟩

/-! ### LOAD and SHIFT (R85, R86) -/

/-- LOAD does nothing with the shift register taken or nothing queued. -/
theorem loadStep_of_disabled {s : State} (h : s.xcvr.sr ≠ none ∨ s.xcvr.txq = []) : loadStep s = s := by
  obtain hpass | ⟨u, rest, hsr, hq, -⟩ := loadStep_cases s
  · exact hpass
  · simp [hsr, hq] at h

/-- A turn that changes nothing is used up and counted. -/
theorem step_turn_pass {s : State} {tn : Turn} {ts : List Turn} (h : s.NextTurn tn ts) (hr : tn ≠ .reset)
    (hv : runTurn tn (s.setTurns ts) = .next (s.setTurns ts)) : step s = .next (s.advance ts) :=
  step_turn_ok h hr hv (running_not_halted h.1)

/-- Settles O44: LOAD is enabled or its turn passes. -/
theorem loadMovesTheOldestUnit : Obligations.LoadMovesTheOldestUnit :=
  fun s ts h => ⟨fun _ _ hsr hq => step_load_of_cons h hsr hq,
    fun hd => step_turn_pass h nofun (congrArg _ (loadStep_of_disabled (s := s.setTurns ts) hd))⟩

section Shift

variable {s : State}

/-- The receive side is full when its queue is as long as its depth (R86). -/
theorem rxfull_eq_true : rxfull s = true ↔ s.xcvr.rxq.length = rxDepth s.params (currentMode s) := by
  simp [rxfull]

/-- SHIFT does nothing with an empty shift register. -/
theorem shiftStep_of_none (hsr : s.xcvr.sr = none) : shiftStep s = .ok s := by simp only [shiftStep, hsr]

/-- SHIFT into a full receive side is an overrun. -/
theorem shiftStep_of_full {u : Unit16} (hsr : s.xcvr.sr = some u) (hf : rxfull s = true) :
    shiftStep s = .error .rxOverrun := by simp only [shiftStep, hsr, hf, if_true]

/-- The overrun is recorded with the turn used up, and no step is counted (R94). -/
theorem step_shift_of_full {ts : List Turn} {u : Unit16} (h : s.NextTurn .shift ts) (hsr : s.xcvr.sr = some u)
    (hf : rxfull s = true) : step s = .next (raiseFault .rxOverrun (s.setTurns ts)) := by
  rw [step_turn h nofun, runTurn, shiftStep_of_full (s := s.setTurns ts) hsr hf, settle, onNext,
    tick_of_halted _ (raiseFault_halted _ _)]

end Shift

/-- Settles O45: the shift register holds a unit, with the receive side full or with room, or its turn passes. -/
theorem shiftExchangesOneUnit : Obligations.ShiftExchangesOneUnit :=
  fun s ts h => ⟨fun _ hsr => ⟨fun hf => step_shift_of_full h hsr (rxfull_eq_true.2 hf),
      fun hf => step_shift_of_room h hsr (rxfull_eq_false.2 hf)⟩,
    fun hsr => step_turn_pass h nofun (by rw [runTurn, shiftStep_of_none (s := s.setTurns ts) hsr, settle])⟩

/-! ### Who uses the transceiver (R79, R90) -/

/-- From `s` to `t` the transceiver and the response on its port stand as they were. -/
def SameXcvr (s t : State) : Prop := t.xcvr = s.xcvr ∧ t.xifResp = s.xifResp

/-- From `s` to `t` the mode of an idle block changes, and what the transceiver holds with it (R57; log entry 8). -/
structure ModeChanges (s t : State) : Prop where
  idle    : busy s = false
  mode16  : t.cfgMode16 ≠ s.cfgMode16
  xifResp : t.xifResp = s.xifResp

/-- A turn of the host leaves the transceiver alone or changes the mode of an idle block. -/
theorem HostEffect.sameXcvr_or_modeChanges {s t : State} (h : HostEffect s t) : SameXcvr s t ∨ ModeChanges s t := by
  cases h with
  | mode ops b hprog hne hidle => exact .inr ⟨hidle, hne, rfl⟩
  | _ => exact .inl ⟨rfl, rfl⟩

/-- No turn of the host gives the engine a request. -/
theorem HostEffect.placed {s t : State} (h : HostEffect s t) : t.placed = s.placed := by cases h <;> rfl

/-- What turn `tn` uses the transceiver for, from `s` to `t` (R79, R90): the transactions of the engine, LOAD and SHIFT, or
a change of mode. -/
def UsesXcvr (s : State) (tn : Turn) (t : State) : Prop :=
  (tn = .engine ∧ (busy s = true ∨ s.placed ≠ none)) ∨
  ((tn = .load ∨ tn = .shift) ∧ t.xifResp = s.xifResp) ∨ (tn = .host ∧ ModeChanges s t)

/-- A turn other than a reset leaves the transceiver alone or uses it as R90 admits. -/
theorem TurnEffect.sameXcvr_or_uses {s t : State} {tn : Turn} (h : TurnEffect s tn t) (hr : tn ≠ .reset) :
    SameXcvr s t ∨ UsesXcvr s tn t := by
  cases h with
  | pass => exact .inl ⟨rfl, rfl⟩
  | host hhost => exact hhost.sameXcvr_or_modeChanges.imp_right fun hm => .inr (.inr ⟨rfl, hm⟩)
  | engine hb => exact .inr (.inl ⟨rfl, .inl hb⟩)
  | engineFault => exact .inl ⟨rfl, rfl⟩
  | load => exact .inr (.inr (.inl ⟨.inl rfl, rfl⟩))
  | shift => exact .inr (.inr (.inl ⟨.inr rfl, rfl⟩))
  | shiftFault => exact .inl ⟨rfl, rfl⟩
  | reset => exact absurd rfl hr
  | request hb hp => exact .inr (.inl ⟨rfl, .inr (by simp [hp])⟩)

/-- The request of a state is issued, or stays where the state has stopped. -/
theorem placed_popPlaced (s : State) : s.popPlaced.placed = s.placed ∨ s.popPlaced.placed = none := by
  unfold State.popPlaced
  split
  · exact .inl rfl
  · exact .inr rfl

/-- No request given to an idle engine gives it another. -/
theorem RequestEffect.placed {s t : State} (h : RequestEffect s t) : t.placed = s.placed := by cases h <;> rfl

/-- A turn keeps the request given from outside, or it is the idle engine's and issues it. -/
theorem TurnEffect.placed {s t : State} {tn : Turn} (h : TurnEffect s tn t) :
    t.placed = s.placed ∨ (t.placed = none ∧ busy s = false ∧ tn = .engine) := by
  cases h with
  | host hhost => exact .inl hhost.placed
  | engine hb hk hstep => exact .inl (engineStep_effect hb hstep).frame.placed
  | request hb hp hreq => exact (placed_popPlaced _).imp (·.trans hreq.placed) fun hnone => ⟨hnone, hb, rfl⟩
  | _ => exact .inl rfl

/-- Settles O39: of all that a step can do, a reset apart, only a turn writes the transceiver or the request. -/
theorem onlyTheEngineUsesTheTransceiver : Obligations.OnlyTheEngineUsesTheTransceiver := by
  intro s t h
  obtain ⟨ts, hts, rfl⟩ | ⟨-, -, -, rfl⟩ | ⟨-, -, rfl⟩ | ⟨-, tn, v, hturn, hr, heff, rfl⟩ := step_cases h
  · exact ⟨.inl (by simp), fun _ => .inl ⟨ts, hts⟩⟩
  · exact ⟨.inl rfl, fun hne => by simp at hne⟩
  · exact ⟨.inl rfl, fun hne => by simp at hne⟩
  · rw [hturn, tick_placed, tick_xcvr, tick_xifResp, tick_cfgMode16]
    refine ⟨heff.placed.imp_right fun ⟨hnone, hidle, htn⟩ => ⟨hnone, hidle, congrArg some htn⟩, fun hne => ?_⟩
    obtain ⟨hx, hresp⟩ | ⟨rfl, hreq⟩ | ⟨rfl | rfl, hresp⟩ | ⟨rfl, hidle, hmode, hresp⟩ := heff.sameXcvr_or_uses hr
    · exact absurd hne (by simp [hx, hresp])
    · exact .inr (.inl ⟨rfl, hreq⟩)
    · exact .inr (.inr (.inl ⟨.inl rfl, hresp⟩))
    · exact .inr (.inr (.inl ⟨.inr rfl, hresp⟩))
    · exact .inr (.inr (.inr ⟨rfl, hidle, hmode, hresp⟩))

/-! ### The order of the units (R88, R89) -/

/-- From `x` to `y` the units keep their order: they stand as they were, one is appended, or the first is taken (R89). -/
def KeepsOrder (x y : Transceiver) : Prop :=
  pipeline y = pipeline x ∨ (∃ u, pipeline y = pipeline x ++ [u]) ∨ ∃ u, pipeline x = u :: pipeline y

namespace KeepsOrder

variable {x : Transceiver} {u : Unit16} {rest : List Unit16}

theorem refl (x : Transceiver) : KeepsOrder x x := .inl rfl

/-- A unit queued is the last to be read. -/
theorem push (x : Transceiver) (u : Unit16) : KeepsOrder x { x with txq := x.txq ++ [u] } :=
  .inr (.inl ⟨u, by simp [pipeline, srUnits]⟩)

/-- A unit read was the first. -/
theorem pop (hq : x.rxq = u :: rest) : KeepsOrder x { x with rxq := rest } :=
  .inr (.inr ⟨u, by simp [pipeline, srUnits, hq]⟩)

/-- A unit loaded stays behind those received and before those queued. -/
theorem load (hsr : x.sr = none) (hq : x.txq = u :: rest) : KeepsOrder x { x with txq := rest, sr := some u } :=
  .inl (by simp [pipeline, srUnits, hsr, hq])

/-- A unit sent and returned stays behind those received and before those queued. -/
theorem shift (hsr : x.sr = some u) : KeepsOrder x { x with sr := none, rxq := x.rxq ++ [u] } :=
  .inl (by simp [pipeline, srUnits, hsr])

end KeepsOrder

/-- A step of a running engine pushes one unit, pops one, or leaves the transceiver as it is. -/
theorem EngineEffect.keepsOrder {s t : State} (h : EngineEffect s t) : KeepsOrder s.xcvr t.xcvr := by
  cases h with
  | push => exact .push ..
  | xchgPush => exact .push ..
  | writeRefused r rest hph hi hq => exact .pop hq
  | popStored after r rest hph hi hq => exact .pop hq
  | popDiscarded after r rest hph hi hq => exact .pop hq
  | xchgDone r rest hph hq => exact .pop hq
  | _ => exact .refl _

/-- A transaction queues one unit, takes one, or leaves the transceiver as it is. -/
theorem RequestEffect.keepsOrder {s t : State} (h : RequestEffect s t) : KeepsOrder s.xcvr t.xcvr := by
  cases h with
  | write => exact .push ..
  | read r rest hq => exact .pop hq
  | _ => exact .refl _

/-- A turn other than a reset keeps the order where the peer returns the unit it is sent, the mode staying as it is. -/
theorem TurnEffect.keepsOrder {s t : State} {tn : Turn} (h : TurnEffect s tn t) (hr : tn ≠ .reset) (hs : s.Inv)
    (hloop : s.peer = .loopback) (hmode : t.cfgMode16 = s.cfgMode16) : KeepsOrder s.xcvr t.xcvr := by
  cases h with
  | pass => exact .refl _
  | host hhost =>
    obtain ⟨hx, -⟩ | hm := hhost.sameXcvr_or_modeChanges
    · rw [hx]; exact .refl _
    · exact absurd hmode hm.mode16
  | engine hb hk hstep => exact (engineStep_effect hb hstep).keepsOrder
  | engineFault => exact .refl _
  | load u rest hsr hq => exact .load hsr hq
  | shift u hsr =>
    have hfits : trunc (currentMode s) u = u := hs.xcvr.fits u (mem_pipeline.2 (.inr (.inl hsr)))
    simp only [hloop, peerAnswer, hfits]
    exact .shift hsr
  | shiftFault => exact .refl _
  | reset => exact absurd rfl hr
  | request hb hp hreq => rw [popPlaced_xcvr]; exact hreq.keepsOrder

/-- Settles O46: the units in the transceiver have the width of the mode (R80), so the loopback peer returns the unit that
was sent as it is. -/
theorem loopbackKeepsOrder : Obligations.LoopbackKeepsOrder := by
  intro s t hs hrun hloop h hmode
  obtain ⟨ts, hts, -⟩ | ⟨-, -, -, rfl⟩ | ⟨-, -, rfl⟩ | ⟨-, tn, v, -, hr, heff, rfl⟩ := step_cases h
  · exact .inl ⟨ts, hts⟩
  · exact .inr (.inl rfl)
  · exact .inr (.inl rfl)
  · rw [tick_cfgMode16] at hmode
    rw [tick_xcvr]
    exact .inr (heff.keepsOrder hr (hs.setTurns _) hloop hmode)

/-! ### Whose turn is next (R79, R105, R111) -/

/-- There is a free choice exactly where some agent can move. -/
theorem chooseTurn_eq_none {n : Nat} {l : List Turn} : chooseTurn n l = none ↔ l = [] := by
  match l with
  | [] => simp [chooseTurn]
  | [t] => simp [chooseTurn]
  | t :: u :: ts =>
    have hlt : Config.pickTurn n % (ts.length + 2) < (t :: u :: ts).length := Nat.mod_lt _ (Nat.succ_pos _)
    simp [chooseTurn, List.getElem?_eq_getElem hlt]

/-- With an empty schedule the next turn is the free choice. -/
theorem nextTurn_of_nil {s : State} (h : s.turns = []) : nextTurn s = chooseTurn s.stepNo (enabledTurns s) := by
  rw [nextTurn, h]

/-- With nobody to move the state of a running machine stays (log entry 14). -/
theorem step_of_nextTurn_none {s : State} (h : s.Running) (hn : nextTurn s = none) : step s = .next s := by
  obtain ⟨hf, hrf, hp⟩ := h
  have ht : s.turns = [] := by
    cases hts : s.turns with
    | nil => rfl
    | cons t ts => exact absurd ((nextTurn_cons hts).symm.trans hn) nofun
  simp only [step, stepOnce, ht, hf, hrf, hp, if_true, agentStep, hn]

/-- An agent is listed exactly under its own condition; a reset never is. -/
theorem mem_enabledTurns {s : State} {t : Turn} : t ∈ enabledTurns s ↔
    (s.hostProg ≠ [] ∧ t = .host) ∨ (engineEnabled s = true ∧ t = .engine) ∨
    (loadEnabled s = true ∧ t = .load) ∨ (shiftEnabled s = true ∧ t = .shift) := by
  simp [enabledTurns]

theorem engineEnabled_iff {s : State} : engineEnabled s = true ↔
    (busy s = true ∧ s.stuck = false) ∨ (busy s = false ∧ s.placed ≠ none) := by
  cases hb : busy s <;> simp [engineEnabled, hb, Option.isSome_iff_ne_none]

theorem loadEnabled_iff {s : State} : loadEnabled s = true ↔ s.xcvr.sr = none ∧ s.xcvr.txq ≠ [] := by
  simp [loadEnabled]

theorem shiftEnabled_iff {s : State} : shiftEnabled s = true ↔ s.xcvr.sr ≠ none := by
  rw [shiftEnabled, Option.isSome_iff_ne_none]

/-- Settles O60: with an empty schedule the next turn is the free choice among the agents listed, and each agent is listed
under its own condition. -/
theorem nextTurnIsScheduledOrEnabled : Obligations.NextTurnIsScheduledOrEnabled := by
  intro s
  refine ⟨fun t ts => nextTurn_cons, fun hts => ?free, ?host, ?engine, ?load, ?shift, ?reset⟩
  case free =>
    have hnone : nextTurn s = none ↔ enabledTurns s = [] := by rw [nextTurn_of_nil hts, chooseTurn_eq_none]
    refine ⟨fun t ht => ?_, fun t ht => ?_, hnone, fun hrun hnobody => step_of_nextTurn_none hrun (hnone.2 hnobody)⟩
    · exact chooseTurn_mem (nextTurn_of_nil hts ▸ ht)
    · rw [nextTurn_of_nil hts, ht, chooseTurn]
  case host => simp [mem_enabledTurns]
  case engine => simp [mem_enabledTurns, engineEnabled_iff]
  case load => simp [mem_enabledTurns, loadEnabled_iff]
  case shift => simp [mem_enabledTurns, shiftEnabled_iff]
  case reset => simp [mem_enabledTurns]

end Sys2Proof.Machine
end

section
/-! PROOFS. Exceptions (60_exceptions.md): after a stop no agent steps (R94, R95); a step that raises a fault records it and
changes nothing else, and each code of R93 arises only under its guard; so codes 5 and 6 never arise, and under the occupancy
invariant (R73) only codes 1, 2 and 3 do. -/

namespace Sys2Proof.Machine

/-! ### Stopped machines (R94, R95) -/

/-- A recorded fault is what every step answers, a reset apart. -/
theorem step_of_faults {s : State} {f : FaultRecord} {fs : List FaultRecord} (ht : ∀ ts, s.turns ≠ .reset :: ts)
    (hf : s.faults = f :: fs) : step s = .fault f.code := by
  unfold step stepOnce
  split
  · next ts hts => exact absurd hts (ht ts)
  · next hf' _ => cases hf.symm.trans hf'; rfl
  · next hf' _ _ => exact absurd (hf.symm.trans hf') nofun
  · next hf' _ _ => exact absurd (hf.symm.trans hf') nofun

/-- A recorded refusal is what every step answers where no fault is recorded, a reset apart. -/
theorem step_of_refused {s : State} {r : Refusal} (ht : ∀ ts, s.turns ≠ .reset :: ts) (hr : s.refused = some r)
    (hf : s.faults = []) : step s = .refused r := by
  unfold step stepOnce
  split
  · next ts hts => exact absurd hts (ht ts)
  · next hf' _ => exact absurd (hf.symm.trans hf') nofun
  · next hr' _ => cases hr.symm.trans hr'; rfl
  · next hr' _ => exact absurd (hr.symm.trans hr') nofun

/-- Settles O50: of the branches of a step, a reset is excluded, and a recorded fault comes before a recorded refusal. -/
theorem nothingStepsAfterAStop : Obligations.NothingStepsAfterAStop :=
  fun _ ht => ⟨fun _ _ hf => step_of_faults ht hf, fun _ hr hf => step_of_refused ht hr hf⟩

/-! ### Where a fault arises (R93) -/

/-- What holds of every state in which a turn raises a fault, code by code (R93). -/
def FaultGuard (s : State) : Fault → Prop
  | .cmdWhileBusy => busy s = true
  | .modeChangedWhileBusy => busy s = true
  | .misalignedBuffer => busy s = false
  | .txWriteWhenFull =>
    (s.eng.phase = .aPush ∧ txfull s = true ∧ s.eng.inflight.toNat < s.params.fifoLimit) ∨
      (busy s = false ∧ s.placed.isSome)
  | .rxReadWhenEmpty => busy s = false ∧ s.placed.isSome
  | .inflightUnderflow => s.eng.phase = .aPop ∧ s.eng.inflight = 0#8
  | .rxOverrun => s.xcvr.sr ≠ none ∧ rxfull s = true

/-- From `s` to `t` code `c` is raised, where it can be: the record is added, and beside it only what the host has still to
do and the schedule may differ (log entry 13). -/
structure Raises (s t : State) (c : Fault) : Prop where
  guard  : FaultGuard s c
  record : ∃ ops ts, t = raiseFault c { s with hostProg := ops, turns := ts }

theorem raises_raiseFault {s : State} {c : Fault} (h : FaultGuard s c) : Raises s (raiseFault c s) c :=
  ⟨h, s.hostProg, s.turns, rfl⟩

/-- The schedule plays no part in what a fault changes or where it arises. -/
theorem Raises.of_setTurns {s t : State} {ts : List Turn} {c : Fault} (h : Raises (s.setTurns ts) t c) :
    Raises s t c := by
  obtain ⟨hguard, ops, ts', rfl⟩ := h
  exact ⟨by cases c <;> exact hguard, ops, ts', rfl⟩

theorem Raises.halted {s t : State} {c : Fault} (h : Raises s t c) : t.halted = true := by
  obtain ⟨-, ops, ts, rfl⟩ := h
  exact raiseFault_halted _ _

/-- A turn of the host that records a fault raises one of codes 1, 2, 3. -/
theorem HostEffect.raises {s t : State} (h : HostEffect s t) (hf : s.faults = []) (ht : t.faults ≠ []) :
    ∃ c, Raises s t c := by
  cases h with
  | fault ops c hc =>
    have hguard : FaultGuard s c := by obtain ⟨rfl, hb⟩ | ⟨rfl, hb⟩ | ⟨rfl, hb⟩ := hc <;> exact hb
    exact ⟨c, hguard, ops, s.turns, rfl⟩
  | _ => exact absurd hf ht

/-- A request given to an idle engine that records a fault raises code 4 or 5. -/
theorem RequestEffect.raises {s t : State} {w : XifRequest} (h : RequestEffect s t) (hb : busy s = false)
    (hp : s.placed = some w) (hf : s.faults = []) (ht : t.faults ≠ []) : ∃ c, Raises s t c := by
  have hplaced : s.placed.isSome := by simp [hp]
  cases h with
  | writeFault => exact ⟨_, raises_raiseFault (.inr ⟨hb, hplaced⟩)⟩
  | readFault => exact ⟨_, raises_raiseFault ⟨hb, hplaced⟩⟩
  | _ => exact absurd hf ht

/-- A phase visit that faults raises code 4 or 6. -/
theorem faultGuard_of_engineStep_error {s : State} {c : Fault} (h : engineStep s = .error c) : FaultGuard s c := by
  obtain ⟨rfl, hph, hfull, hlt⟩ | ⟨rfl, hph, hzero, -⟩ := engineStep_error h
  · exact .inl ⟨hph, hfull, hlt⟩
  · exact ⟨hph, hzero⟩

/-- A turn of any agent that records a fault raises it and does nothing else. -/
theorem TurnEffect.raises {s t : State} {tn : Turn} (h : TurnEffect s tn t) (hf : s.faults = [])
    (ht : t.faults ≠ []) : ∃ c, Raises s t c := by
  cases h with
  | host hhost => exact hhost.raises hf ht
  | engine hb hk hstep => exact absurd ((engineStep_effect hb hstep).frame.faults.trans hf) ht
  | engineFault hb hk hstep => exact ⟨_, raises_raiseFault (faultGuard_of_engineStep_error hstep)⟩
  | shiftFault u hsr hfull => exact ⟨_, raises_raiseFault ⟨by simp [hsr], hfull⟩⟩
  | reset => exact absurd rfl ht
  | request hb hp hreq =>
    obtain ⟨c, hc⟩ := hreq.raises hb hp hf (by simpa using ht)
    exact ⟨c, by rwa [popPlaced_of_halted _ hc.halted]⟩
  | _ => exact absurd hf ht

/-- A step of a running machine that records a fault raises it and does nothing else. -/
theorem step_raises {s t : State} (hrun : s.Running) (h : step s = .next t) (ht : t.faults ≠ []) :
    ∃ c, Raises s t c := by
  have hf := hrun.1
  obtain ⟨ts, -, rfl⟩ | ⟨-, -, -, rfl⟩ | ⟨-, -, rfl⟩ | ⟨-, tn, v, -, -, heff, rfl⟩ := step_cases h
  · exact absurd (by simp) ht
  · exact absurd hf ht
  · exact absurd hf ht
  · obtain ⟨c, hc⟩ := heff.raises hf (by simpa using ht)
    rw [tick_of_halted _ hc.halted]
    exact ⟨c, hc.of_setTurns⟩

/-- The fault set after the first fault: its record (R93). -/
theorem Raises.faults {s t : State} {c : Fault} (h : Raises s t c) (hf : s.faults = []) :
    t.faults = [{ code := c, phase := s.eng.phase, step := s.stepNo }] := by
  obtain ⟨-, ops, ts, rfl⟩ := h
  simp [hf, addFault]

/-- Settles O49: a step that records a fault is that record, the schedule and the host's program apart. -/
theorem faultingStepChangesOnlyTheRecord : Obligations.FaultingStepChangesOnlyTheRecord := by
  intro s t hrun h ht
  obtain ⟨c, hc⟩ := step_raises hrun h ht
  refine ⟨⟨c, hc.faults hrun.1⟩, ?_⟩
  obtain ⟨-, ops, ts, rfl⟩ := hc
  exact ⟨rfl, rfl, rfl, rfl, rfl, rfl, rfl, rfl, rfl, rfl, rfl, rfl, rfl⟩

/-- Every fault a step of a running machine records arises where its code can. -/
theorem faultGuard_of_mem_faults {s t : State} {f : FaultRecord} (hrun : s.Running) (h : step s = .next t)
    (hmem : f ∈ t.faults) : FaultGuard s f.code := by
  obtain ⟨c, hc⟩ := step_raises hrun h (List.ne_nil_of_mem hmem)
  rw [hc.faults hrun.1, List.mem_singleton] at hmem
  subst hmem
  exact hc.guard

/-! ### Codes 5 and 6 (R67, R72, R84) -/

/-- A_POP is entered with a unit in flight (R67). -/
theorem State.Inv.not_faultGuard_inflightUnderflow {s : State} (hs : s.Inv) : ¬ FaultGuard s .inflightUnderflow :=
  fun ⟨hph, hzero⟩ => hs.engine.popOwed hph hzero

/-- The engine reads only after a poll that saw a unit (R61, R67, R70), so code 5 needs a request from outside. -/
theorem not_faultGuard_rxReadWhenEmpty {s : State} (hplaced : busy s = false → s.placed = none) :
    ¬ FaultGuard s .rxReadWhenEmpty :=
  fun ⟨hb, hp⟩ => by simp [hplaced hb] at hp

/-- Settles O57: neither code can arise, A_POP having a unit in flight and no request being given to an idle engine. -/
theorem popFaultsAreUnreachable : Obligations.PopFaultsAreUnreachable := by
  intro s t hs hrun hplaced h f hmem
  have hguard := faultGuard_of_mem_faults hrun h hmem
  exact ⟨fun hcode => not_faultGuard_rxReadWhenEmpty hplaced (hcode ▸ hguard),
    fun hcode => hs.not_faultGuard_inflightUnderflow (hcode ▸ hguard)⟩

/-! ### The transfer under the occupancy invariant (R73) -/

theorem length_txq_le_occupancy (x : Transceiver) : x.txq.length ≤ occupancy x := by
  unfold occupancy; omega

/-- A unit in the shift register counts beside those received. -/
theorem length_rxq_lt_occupancy {x : Transceiver} (hsr : x.sr ≠ none) : x.rxq.length < occupancy x := by
  obtain ⟨u, hu⟩ := Option.ne_none_iff_exists'.1 hsr
  simp only [occupancy, srUnits, hu, Option.toList_some, List.length_singleton]
  omega

/-- Outside a buffered exchange at most the one unit of an XCHG is due (R62, R108). -/
theorem occupancyDue_le_one {e : Engine} {n : Nat} (hx : inXbuf e.phase = false) (hd : occupancyDue e n) : n ≤ 1 := by
  unfold occupancyDue at hd
  split at hd <;> simp_all [inXbuf]

/-- The transceiver never holds more units than the cap (R22, R73). -/
theorem State.OccInv.occupancy_le {s : State} (hs : s.OccInv) (hrun : s.Running) :
    occupancy s.xcvr ≤ s.params.fifoLimit := by
  obtain ⟨hone, -, -⟩ := (paramsAdmitted_iff _).1 hrun.2.2
  cases hx : inXbuf s.eng.phase with
  | false =>
    have hdue := occupancyDue_le_one hx hs.due
    omega
  | true =>
    have hdue := (occupancyDue_iff_of_inXbuf hx).1 hs.due
    have hcap := hs.inv.engine.cap
    omega

/-- R73 (a): under the cap the transmit side has room for the push of A_PUSH, and no request comes from outside. -/
theorem State.OccInv.not_faultGuard_txWriteWhenFull {s : State} (hs : s.OccInv) (hrun : s.Running) :
    ¬ FaultGuard s .txWriteWhenFull := by
  rintro (⟨hph, hfull, hlt⟩ | ⟨-, hplaced⟩)
  · obtain ⟨-, -, hdepth⟩ := (paramsAdmitted_iff _).1 hrun.2.2
    have hcount := (occupancyDue_iff_of_inXbuf (by simp [hph, inXbuf])).1 hs.due
    have hqueue := length_txq_le_occupancy s.xcvr
    have hroom := (hdepth (currentMode s)).1
    rw [txfull_eq_true.1 hfull] at hqueue
    omega
  · simp [hs.only] at hplaced

/-- R73 (b): a unit in the shift register leaves fewer than the cap received, so the receive side has room for it. -/
theorem State.OccInv.not_faultGuard_rxOverrun {s : State} (hs : s.OccInv) (hrun : s.Running) :
    ¬ FaultGuard s .rxOverrun := by
  rintro ⟨hsr, hfull⟩
  obtain ⟨-, -, hdepth⟩ := (paramsAdmitted_iff _).1 hrun.2.2
  have hqueue := length_rxq_lt_occupancy hsr
  have hocc := hs.occupancy_le hrun
  have hroom := (hdepth (currentMode s)).2
  rw [rxfull_eq_true.1 hfull] at hqueue
  omega

/-- Settles O56: the codes are gone through one by one; the four of the transfer cannot arise. -/
theorem transferNeverFaults : Obligations.TransferNeverFaults := by
  intro s t hs hrun h f hmem
  have hguard := faultGuard_of_mem_faults hrun h hmem
  cases hcode : f.code <;> rw [hcode] at hguard
  case cmdWhileBusy => exact .inl rfl
  case modeChangedWhileBusy => exact .inr (.inl rfl)
  case misalignedBuffer => exact .inr (.inr rfl)
  case txWriteWhenFull => exact absurd hguard (hs.not_faultGuard_txWriteWhenFull hrun)
  case rxReadWhenEmpty => exact absurd hguard (not_faultGuard_rxReadWhenEmpty fun _ => hs.only)
  case inflightUnderflow => exact absurd hguard hs.inv.not_faultGuard_inflightUnderflow
  case rxOverrun => exact absurd hguard (hs.not_faultGuard_rxOverrun hrun)

end Sys2Proof.Machine
end

section
/-! PROOFS. Reset and the completion of commands (70_reset_and_hazards.md): a reset and the state the model starts in have
every value of R106's table; a command that runs completes in every weakly fair run (R74, R110), and without fairness the
engine may poll for ever (R96). -/

namespace Sys2Proof.Machine

/-! ### Reset (R106) -/

/-- A scheduled reset is taken before everything else: also after a fault or a refusal, and under any parameters. -/
theorem step_reset {s : State} {ts : List Turn} (h : s.turns = .reset :: ts) :
    step s = .next (resetBlock (s.setTurns ts)).tick := by
  simp only [step, stepOnce, h, runTurn, onNext]

/-- STATUS reads the engine and DONE (R16). -/
theorem statusWord_congr {s t : State} (he : t.eng = s.eng) (hd : t.regs.done = s.regs.done) :
    statusWord t = statusWord s := by
  simp only [statusWord, busy, he, hd]

/-- STATUS reads 0 at reset. -/
theorem statusWord_reset : statusWord State.reset = 0#32 := by decide

/-- Settles O52: a reset turn writes the reset values of the registers, the engine and the transceiver, from which STATUS
and RESULT are read. -/
theorem resetPutsEveryValue : Obligations.ResetPutsEveryValue := by
  refine ⟨fun s ts hts => ⟨_, step_reset hts, ?_⟩, rfl, statusWord_reset, rfl, rfl, rfl, rfl, rfl⟩
  have hstatus : statusWord (resetBlock (s.setTurns ts)).tick = 0#32 :=
    (statusWord_congr (s := State.reset) (by rw [tick_eng]; rfl) (by rw [tick_regs]; rfl)).trans statusWord_reset
  simp [readReg, hstatus, HostRegs.reset, Engine.reset, Transceiver.reset]

/-! ### The work a command has left (R74) -/

/-- The units that a command has still to send: in an XCHG its one until S_WAITTX has pushed it. -/
def unsent (e : Engine) : Nat :=
  match e.phase with
  | .waitTx | .aPush | .aPop | .bDrain => e.count.toNat - e.sent.toNat
  | .sWaitTx => 1
  | .sWaitRx | .idle => 0

/-- The share of a phase in the work left: A_POP and A_PUSH, between which the engine goes to and fro at the cap (R65,
R67), have the same while nothing has been received. -/
def phaseWork (e : Engine) (x : Transceiver) : Nat :=
  match e.phase with
  | .waitTx => 3
  | .aPush => if x.rxq = [] then 1 else 2
  | .aPop => 1
  | .bDrain | .sWaitTx | .sWaitRx | .idle => 0

/-- The way that the units in the transceiver have still to go, each place on it two above the next, so that a phase of a
higher share may follow a move. -/
def wayLeft (x : Transceiver) : Nat := 6 * x.txq.length + 4 * (srUnits x).length + 2 * x.rxq.length

/-- The work a command has left: the units it has to send, those that are on their way, and its phase. -/
def workLeft (e : Engine) (x : Transceiver) : Nat := 8 * unsent e + wayLeft x + phaseWork e x

section Moves

variable {x : Transceiver} {u : Unit16} {rest : List Unit16}

theorem wayLeft_push (x : Transceiver) (u : Unit16) : wayLeft { x with txq := x.txq ++ [u] } = wayLeft x + 6 := by
  simp [wayLeft, srUnits]; omega

theorem wayLeft_load (hsr : x.sr = none) (hq : x.txq = u :: rest) :
    wayLeft { x with txq := rest, sr := some u } + 2 = wayLeft x := by
  simp [wayLeft, srUnits, hsr, hq]; omega

theorem wayLeft_shift (hsr : x.sr = some u) (d : Unit16) :
    wayLeft { x with sr := none, rxq := x.rxq ++ [d] } + 2 = wayLeft x := by
  simp [wayLeft, srUnits, hsr]; omega

theorem wayLeft_pop (hq : x.rxq = u :: rest) : wayLeft { x with rxq := rest } + 2 = wayLeft x := by
  simp [wayLeft, srUnits, hq]; omega

end Moves

/-- The share of A_PUSH depends on the transceiver, by one at most. -/
theorem phaseWork_le_succ (e : Engine) (x y : Transceiver) : phaseWork e y ≤ phaseWork e x + 1 := by
  cases hph : e.phase
  case aPush => simp only [phaseWork, hph]; split <;> split <;> omega
  all_goals simp [phaseWork, hph]

/-- A move of the transceiver alone, one place on (R85, R86). -/
theorem workLeft_lt_of_wayLeft (e : Engine) {x y : Transceiver} (hway : wayLeft y + 2 = wayLeft x) :
    workLeft e y < workLeft e x := by
  have hshare := phaseWork_le_succ e x y
  unfold workLeft
  omega

/-- A pop of A_POP or B_DRAIN takes a unit out (R67, R70). -/
theorem workLeft_pop {e e' : Engine} {x : Transceiver} {u : Unit16} {rest : List Unit16} (hq : x.rxq = u :: rest)
    (hph : (e.phase = .aPop ∧ e'.phase = .aPush) ∨ (e.phase = .bDrain ∧ e'.phase = .bDrain))
    (hs : e'.sent = e.sent) (hc : e'.count = e.count) : workLeft e' { x with rxq := rest } < workLeft e x := by
  have hway := wayLeft_pop hq
  obtain ⟨hph, hph'⟩ | ⟨hph, hph'⟩ := hph
  · simp only [workLeft, unsent, phaseWork, hph, hph', hs, hc]
    split <;> omega
  · simp only [workLeft, unsent, phaseWork, hph, hph', hs, hc]
    omega

/-- A push of A_PUSH with a unit left to send (R65). -/
theorem workLeft_push {e e' : Engine} (x : Transceiver) (u : Unit16) (hph : e.phase = .aPush) (hph' : e'.phase = .aPop)
    (hn : e.sent ≠ e.count) (hle : e.sent.toNat ≤ e.count.toNat) (hs : e'.sent = e.sent + 1#32)
    (hc : e'.count = e.count) : workLeft e' { x with txq := x.txq ++ [u] } < workLeft e x := by
  have hway := wayLeft_push x u
  have hsent : e.count.toNat - (e.sent + 1#32).toNat + 1 = e.count.toNat - e.sent.toNat := by bv_omega
  simp only [workLeft, unsent, phaseWork, hph, hph', hs, hc]
  omega

/-! ### A command under way -/

/-- A command with operation `op` and count `n` runs under the occupancy invariant, with every buffer access admitted. -/
structure Underway (op : Command) (n : Word) (s : State) : Prop where
  occ     : s.OccInv
  running : s.Running
  busy    : busy s = true
  free    : s.stuck = false
  admits  : AdmitsAll s.params
  op      : s.eng.op = op
  count   : s.eng.count = n

/-- It has completed (R21, R72, R108). -/
structure Finished (op : Command) (n : Word) (s : State) : Prop where
  idle      : Machine.busy s = false
  done      : s.regs.done = true
  quiescent : s.Quiescent
  result    : op = .xbuf → readReg s .result = n

/-- The command has finished or is under way with less than `w` of its work left. -/
def Nearer (op : Command) (n : Word) (w : Nat) (s : State) : Prop :=
  Finished op n s ∨ (Underway op n s ∧ workLeft s.eng s.xcvr < w)

/-- Every unit in the transceiver has been received. -/
def Settled (x : Transceiver) : Prop := x.txq = [] ∧ x.sr = none

/-- A unit that is due and not received is still on its way. -/
theorem not_settled_of_rxq_nil {x : Transceiver} (hq : x.rxq = []) (hocc : occupancy x ≠ 0) : ¬ Settled x := by
  rintro ⟨htxq, hsr⟩
  simp [occupancy, srUnits, htxq, hsr, hq] at hocc

/-- With admitted parameters a full transmit side holds a unit that is on its way (R6). -/
theorem not_settled_of_txfull {s : State} (hp : paramsAdmitted s.params = true) (hf : txfull s = true) :
    ¬ Settled s.xcvr :=
  fun ⟨htxq, _⟩ => absurd (hf.symm.trans (txfull_of_nil hp htxq)) nofun

/-- From `s` to `t` a command is taken on: it completes, or less work is left. -/
def Advances (s t : State) : Prop := t.eng.phase = .idle ∨ workLeft t.eng t.xcvr < workLeft s.eng s.xcvr

/-- From `s` to `t` a command waits: the transceiver and the work left stand. -/
structure Waits (s t : State) : Prop where
  xcvr : t.xcvr = s.xcvr
  work : workLeft t.eng t.xcvr = workLeft s.eng s.xcvr

/-- With every access admitted the transmit source always gives a unit (R32, R66). -/
theorem txUnit_ne_none {s : State} (h : AdmitsAll s.params) : txUnit s ≠ none := by
  cases hp : s.eng.txp <;> simp [txUnit, hp, h _ _ _]

namespace Underway

variable {op : Command} {n : Word} {s : State}

/-- In a buffered exchange the count is the occupancy (R73). -/
theorem inflight_eq (h : Underway op n s) (hx : inXbuf s.eng.phase = true) :
    s.eng.inflight.toNat = occupancy s.xcvr := by
  have hdue := (occupancyDue_iff_of_inXbuf hx).1 h.occ.due
  rwa [lostUnits_eq_zero h.free, Nat.add_zero] at hdue

/-- In a buffered exchange with a unit in flight and none received, the unit is on its way. -/
theorem not_settled_of_inflight (h : Underway op n s) (hx : inXbuf s.eng.phase = true) (hq : s.xcvr.rxq = [])
    (hi : s.eng.inflight ≠ 0#8) : ¬ Settled s.xcvr := by
  have hcount := h.inflight_eq hx
  exact not_settled_of_rxq_nil hq (by bv_omega)

/-- In S_WAITRX with nothing received, the unit of the XCHG is on its way (R62). -/
theorem not_settled_of_sWaitRx (h : Underway op n s) (hph : s.eng.phase = .sWaitRx) (hq : s.xcvr.rxq = []) :
    ¬ Settled s.xcvr := by
  have hdue : occupancy s.xcvr = 1 := by
    simpa [occupancyDue, hph, lostUnits_eq_zero h.free] using h.occ.due
  exact not_settled_of_rxq_nil hq (by omega)

end Underway

/-- A step of the engine of a command under way takes it on, or the command waits for a unit that is on its way. -/
theorem EngineEffect.advances_or_waits {op : Command} {n : Word} {s t : State} (heff : EngineEffect s t)
    (h : Underway op n s) : Advances s t ∨ (Waits s t ∧ ¬ Settled s.xcvr) := by
  cases heff with
  | wait hwait =>
    refine .inr ⟨⟨rfl, rfl⟩, ?_⟩
    obtain ⟨-, hf⟩ | ⟨⟨hph, hi⟩ | hph, hq⟩ := hwait
    · exact not_settled_of_txfull h.running.2.2 hf
    · exact h.not_settled_of_inflight (by simp [hph, inXbuf]) hq hi
    · exact h.not_settled_of_sWaitRx hph hq
  | slot hph =>
    refine .inl (.inr ?_)
    simp only [workLeft, unsent, phaseWork, hph]
    split <;> omega
  | loopEnd hph =>
    refine .inl (.inr ?_)
    simp only [workLeft, unsent, phaseWork, hph]
    split <;> omega
  | capped hph hn hl =>
    by_cases hq : s.xcvr.rxq = []
    · obtain ⟨hpos, -, -⟩ := (paramsAdmitted_iff _).1 h.running.2.2
      have hi : s.eng.inflight ≠ 0#8 := by bv_omega
      exact .inr ⟨⟨rfl, by simp [workLeft, unsent, phaseWork, hph, hq]⟩,
        h.not_settled_of_inflight (by simp [hph, inXbuf]) hq hi⟩
    · exact .inl (.inr (by simp [workLeft, unsent, phaseWork, hph, hq]))
  | readRefused hph hn hl hu => exact absurd hu (txUnit_ne_none h.admits)
  | push u hph hn => exact .inl (.inr (workLeft_push _ _ hph rfl hn h.occ.inv.engine.bound rfl rfl))
  | noPop hph hq =>
    exact .inr ⟨⟨rfl, by simp [workLeft, unsent, phaseWork, hph, hq]⟩,
      h.not_settled_of_inflight (by simp [hph, inXbuf]) hq (h.occ.inv.engine.popOwed hph)⟩
  | writeRefused r rest hph hi hq hp ha => exact absurd (ha.symm.trans (h.admits _ _ _)) nofun
  | popStored after r rest hph hi hq => exact .inl (.inr (workLeft_pop hq hph rfl rfl))
  | popDiscarded after r rest hph hi hq => exact .inl (.inr (workLeft_pop hq hph rfl rfl))
  | drained => exact .inl (.inl rfl)
  | xchgPush hph =>
    refine .inl (.inr ?_)
    simp only [workLeft, unsent, phaseWork, hph, wayLeft_push]
    omega
  | xchgDone => exact .inl (.inl rfl)

/-! ### What every turn does to a command under way -/

/-- From `s` to `t` a running command keeps its operation and its count, and no refused access holds it; it is taken on or
waits; and where it ends, a buffered exchange has sent its count. -/
structure Continues (s t : State) : Prop where
  op    : t.eng.op = s.eng.op
  count : t.eng.count = s.eng.count
  free  : t.stuck = false
  goes  : Advances s t ∨ Waits s t
  sent  : busy t = false → s.eng.op = .xbuf → t.eng.sent = s.eng.count

namespace Continues

variable {op : Command} {n : Word} {s t : State}

/-- `Continues` reads the engine, the mark `stuck` and the transceiver. -/
theorem congr {s' t' : State} (h : Continues s t) (hs : s'.eng = s.eng) (hsx : s'.xcvr = s.xcvr) (ht : t'.eng = t.eng)
    (htx : t'.xcvr = t.xcvr) (hk : t'.stuck = t.stuck) : Continues s' t' where
  op := by rw [ht, hs, h.op]
  count := by rw [ht, hs, h.count]
  free := hk.trans h.free
  goes := by
    rw [Advances, ht, htx, hs, hsx]
    exact h.goes.imp id fun hw => ⟨by rw [htx, hsx, hw.xcvr], by rw [ht, htx, hs, hsx, hw.work]⟩
  sent hb hop := by
    rw [ht, hs]
    exact h.sent (by rwa [← busy_congr (congrArg Engine.phase ht)]) (by rwa [← hs])

/-- A turn that leaves the engine alone takes a command on or has it wait. -/
theorem of_eng (h : Underway op n s) (he : t.eng = s.eng) (hk : t.stuck = s.stuck)
    (hg : Advances s t ∨ t.xcvr = s.xcvr) : Continues s t where
  op := by rw [he]
  count := by rw [he]
  free := hk.trans h.free
  goes := hg.imp_right fun hx => ⟨hx, by rw [he, hx]⟩
  sent hb := by
    have hsame : busy t = busy s := busy_congr (congrArg Engine.phase he)
    exact absurd (h.busy.symm.trans (hsame.symm.trans hb)) nofun

end Continues

/-- A buffered exchange ends with its count sent (R72). -/
theorem EngineEffect.sent_of_ends {s t : State} (heff : EngineEffect s t) (hs : s.Inv) (hb : busy s = true)
    (ht : busy t = false) (hop : s.eng.op = .xbuf) : t.eng.sent = s.eng.count := by
  obtain ⟨hph, -, rfl⟩ | ⟨hph, -⟩ := heff.completes hb ht
  · exact hs.engine.allSent hph
  · exact absurd (hop.symm.trans (hs.engine.xchgOp (.inr hph))) nofun

/-- A step of the engine keeps the command's operation and count. -/
theorem EngineEffect.sameCommand {s t : State} (heff : EngineEffect s t) :
    t.eng.op = s.eng.op ∧ t.eng.count = s.eng.count := by
  cases heff <;> exact ⟨rfl, rfl⟩

/-- With every access admitted an engine step holds no engine (R32). -/
theorem EngineEffect.free {s t : State} (heff : EngineEffect s t) (ha : AdmitsAll s.params) (hk : s.stuck = false) :
    t.stuck = false := by
  cases heff with
  | readRefused hph hn hl hu => exact absurd hu (txUnit_ne_none ha)
  | writeRefused r rest hph hi hq hp hw => exact absurd (hw.symm.trans (ha _ _ _)) nofun
  | _ => exact hk

/-- A step of the engine continues a command under way. -/
theorem EngineEffect.continues {op : Command} {n : Word} {s t : State} (heff : EngineEffect s t)
    (h : Underway op n s) : Continues s t where
  op := heff.sameCommand.1
  count := heff.sameCommand.2
  free := heff.free h.admits h.free
  goes := (heff.advances_or_waits h).imp_right And.left
  sent hb hop := heff.sent_of_ends h.occ.inv h.busy hb hop

/-- Under any turn but a reset a command under way continues. -/
theorem TurnEffect.continues {op : Command} {n : Word} {s t : State} {tn : Turn} (heff : TurnEffect s tn t)
    (hr : tn ≠ .reset) (h : Underway op n s) : Continues s t := by
  cases heff with
  | pass => exact .of_eng h rfl rfl (.inr rfl)
  | host hhost =>
    have hstands := hhost.commandStands h.busy
    exact .of_eng h hstands.eng hstands.stuck (.inr hstands.xcvr)
  | engine hb hk hstep => exact (engineStep_effect hb hstep).continues h
  | engineFault => exact .of_eng h rfl rfl (.inr rfl)
  | load u rest hsr hq => exact .of_eng h rfl rfl (.inl (.inr (workLeft_lt_of_wayLeft _ (wayLeft_load hsr hq))))
  | shift u hsr => exact .of_eng h rfl rfl (.inl (.inr (workLeft_lt_of_wayLeft _ (wayLeft_shift hsr _))))
  | shiftFault => exact .of_eng h rfl rfl (.inr rfl)
  | reset => exact absurd rfl hr
  | request hidle => exact absurd (hidle.symm.trans h.busy) nofun

namespace Underway

variable {op : Command} {n : Word} {s t : State}

/-- The schedule plays no part in whether a command is under way. -/
theorem setTurns (h : Underway op n s) (ts : List Turn) : Underway op n (s.setTurns ts) :=
  ⟨⟨h.occ.inv.setTurns ts, h.occ.only, h.occ.due⟩, h.running, h.busy, h.free, h.admits, h.op, h.count⟩

/-- In every step but a reset a command under way continues. -/
theorem continues (h : Underway op n s) (hst : step s = .next t) (hr : ¬ Takes .reset s) : Continues s t := by
  obtain ⟨ts, hts, -⟩ | ⟨-, -, hbad, -⟩ | ⟨-, -, rfl⟩ | ⟨-, tn, v, -, hne, heff, rfl⟩ := step_cases hst
  · exact absurd (nextTurn_cons hts) hr
  · exact absurd (hbad.symm.trans h.running.2.2) nofun
  · exact .of_eng h rfl rfl (.inr rfl)
  · exact (heff.continues hne (h.setTurns _)).congr rfl rfl (tick_eng v) (tick_xcvr v) (tick_stuck v)

/-- After every step but a reset that does not stop the machine the command has finished or is still under way. -/
theorem finished_or_underway (h : Underway op n s) (hst : step s = .next t) (hr : ¬ Takes .reset s) (ht : t.Running) :
    Finished op n t ∨ Underway op n t := by
  have hc := h.continues hst hr
  have hocc : t.OccInv := everyStepKeepsTheOccupancy.1 s t h.occ hst
  have hparams : t.params = s.params := (configurationIsNeverWritten s t hst).1
  cases hb : Machine.busy t with
  | true =>
    have hadmits : AdmitsAll t.params := hparams ▸ h.admits
    exact .inr ⟨hocc, ht, hb, hc.free, hadmits, hc.op.trans h.op, hc.count.trans h.count⟩
  | false =>
    have hempty : t.xcvr = Transceiver.reset := hocc.accounted.empty (busy_eq_false.1 hb)
    obtain ⟨ts, hts⟩ | ⟨hdone, -⟩ := onlyCompletionOrResetEndsACommand s t h.busy hst hb
    · exact absurd (nextTurn_cons hts) hr
    · exact .inl ⟨hb, hdone, by rw [State.Quiescent, hempty]; exact ⟨rfl, rfl, rfl⟩,
        fun hop => (hc.sent hb (h.op.trans hop)).trans h.count⟩

end Underway

/-! ### The turn that is due -/

/-- The agent whose turn takes a command on: SHIFT or LOAD while a unit is on its way, then the engine. -/
def dueTurn (x : Transceiver) : Turn :=
  match x.sr, x.txq with
  | some _, _ => .shift
  | none, _ :: _ => .load
  | none, [] => .engine

/-- The due turn, by what the transceiver holds. -/
theorem dueTurn_cases (x : Transceiver) :
    (dueTurn x = .shift ∧ ∃ u, x.sr = some u) ∨ (dueTurn x = .load ∧ x.sr = none ∧ ∃ u rest, x.txq = u :: rest) ∨
    (dueTurn x = .engine ∧ Settled x) := by
  unfold dueTurn Settled
  split <;> simp_all

/-- The due turn is one that weak fairness speaks of (R110). -/
theorem dueTurn_fair (x : Transceiver) : dueTurn x = .engine ∨ dueTurn x = .load ∨ dueTurn x = .shift := by
  obtain ⟨h, -⟩ | ⟨h, -⟩ | ⟨h, -⟩ := dueTurn_cases x <;> simp [h]

namespace Underway

variable {op : Command} {n : Word} {s t : State}

/-- The due turn is enabled. -/
theorem dueTurn_enabled (h : Underway op n s) : dueTurn s.xcvr ∈ enabledTurns s := by
  rw [mem_enabledTurns]
  obtain ⟨hd, u, hsr⟩ | ⟨hd, hsr, u, rest, hq⟩ | ⟨hd, -⟩ := dueTurn_cases s.xcvr
  · exact .inr (.inr (.inr ⟨shiftEnabled_iff.2 (by simp [hsr]), hd⟩))
  · exact .inr (.inr (.inl ⟨loadEnabled_iff.2 ⟨hsr, by simp [hq]⟩, hd⟩))
  · exact .inr (.inl ⟨engineEnabled_iff.2 (.inl ⟨h.busy, h.free⟩), hd⟩)

/-- A step that takes the command on, without stopping the machine, finishes it or leaves less work. -/
theorem nearer (h : Underway op n s) (hst : step s = .next t) (hr : ¬ Takes .reset s) (ht : t.Running)
    (ha : Advances s t) : Nearer op n (workLeft s.eng s.xcvr) t := by
  obtain hfin | hunder := h.finished_or_underway hst hr ht
  · exact .inl hfin
  · exact .inr ⟨hunder, ha.resolve_left (busy_eq_true.1 hunder.busy)⟩

/-- Every step but a reset that does not stop the machine brings the command nearer its end or has it wait. -/
theorem nearer_or_waits (h : Underway op n s) (hst : step s = .next t) (hr : ¬ Takes .reset s) (ht : t.Running) :
    Nearer op n (workLeft s.eng s.xcvr) t ∨ (Underway op n t ∧ Waits s t) := by
  obtain ha | hw := (h.continues hst hr).goes
  · exact .inl (h.nearer hst hr ht ha)
  · exact (h.finished_or_underway hst hr ht).imp .inl fun hunder => ⟨hunder, hw⟩

/-- The due turn takes the command on. -/
theorem advances_of_dueTurn (h : Underway op n s) (hst : step s = .next t) (ht : t.Running)
    (hdue : Takes (dueTurn s.xcvr) s) : Advances s t := by
  obtain ⟨hd, u, hsr⟩ | ⟨hd, hsr, u, rest, hq⟩ | ⟨hd, hsettled⟩ := dueTurn_cases s.xcvr <;> rw [hd] at hdue
  · have hroom : rxfull s = false := by
      by_contra hfull
      exact h.occ.not_faultGuard_rxOverrun h.running ⟨by simp [hsr], by simpa using hfull⟩
    cases (step_shift_of_room ⟨h.running, hdue, rfl⟩ hsr hroom).symm.trans hst
    exact .inr (workLeft_lt_of_wayLeft _ (wayLeft_shift hsr _))
  · cases (step_load_of_cons ⟨h.running, hdue, rfl⟩ hsr hq).symm.trans hst
    exact .inr (workLeft_lt_of_wayLeft _ (wayLeft_load hsr hq))
  · obtain ⟨v, rfl, heff | ⟨c, rfl⟩⟩ := step_engineEffect ⟨⟨h.running, hdue, rfl⟩, h.free, h.busy⟩ hst
    · rw [Advances, tick_eng, tick_xcvr]
      exact (heff.advances_or_waits (h.setTurns _)).resolve_right fun hw => hw.2 hsettled
    · have hstop := running_not_halted ht
      rw [tick_of_halted _ (raiseFault_halted _ _)] at hstop
      exact absurd (hstop.symm.trans (raiseFault_halted _ _)) nofun

end Underway

/-! ### Completion under weak fairness (R74, R110) -/

/-- A machine that steps without a reset, under admitted parameters, has not stopped (R94, R95). -/
theorem running_of_step {s t : State} (hst : step s = .next t) (hr : ¬ Takes .reset s)
    (hp : paramsAdmitted s.params = true) : s.Running := by
  obtain ⟨ts, hts, -⟩ | ⟨-, -, hbad, -⟩ | ⟨hrun, -, -⟩ | ⟨hrun, -⟩ := step_cases hst
  · exact absurd (nextTurn_cons hts) hr
  · exact absurd (hbad.symm.trans hp) nofun
  · exact hrun
  · exact hrun

section Runs

variable {r : Nat → State} {op : Command} {n : Word} {k : Nat}

/-- In a run without a reset nothing stops a machine with a command under way. -/
theorem Underway.running_succ (h : Underway op n (r k)) (hrun : IsRun r) (hnr : NoReset r) : (r (k + 1)).Running := by
  have hparams : (r (k + 1)).params = (r k).params := (configurationIsNeverWritten _ _ (hrun k)).1
  exact running_of_step (hrun (k + 1)) (hnr (k + 1)) (by rw [hparams]; exact h.running.2.2)

/-- A command that comes no nearer its end waits for ever. -/
theorem Underway.waits_forever (h : Underway op n (r k)) (hrun : IsRun r) (hnr : NoReset r)
    (hno : ∀ m, ¬ Nearer op n (workLeft (r k).eng (r k).xcvr) (r m)) {m : Nat} (hm : k ≤ m) :
    Underway op n (r m) ∧ Waits (r k) (r m) := by
  induction m, hm using Nat.le_induction with
  | base => exact ⟨h, rfl, rfl⟩
  | succ m hm ih =>
    obtain ⟨hunder, hx, hw⟩ := ih
    have hstep := hunder.nearer_or_waits (hrun m) (hnr m) (hunder.running_succ hrun hnr)
    rw [hw] at hstep
    obtain ⟨hnext, hx', hw'⟩ := hstep.resolve_left (hno (m + 1))
    exact ⟨hnext, hx'.trans hx, hw'.trans hw⟩

/-- Under weak fairness a command under way comes nearer its end: while it waits the same turn stays due and enabled, and
that turn, once taken, takes it on. -/
theorem Underway.exists_nearer (h : Underway op n (r k)) (hrun : IsRun r) (hnr : NoReset r) (hfair : WeaklyFair r) :
    ∃ m, Nearer op n (workLeft (r k).eng (r k).xcvr) (r m) := by
  by_contra hnone
  have hno := not_exists.1 hnone
  have hwaits {m : Nat} (hm : k ≤ m) := h.waits_forever hrun hnr hno hm
  have henabled : ∀ m, k ≤ m → dueTurn (r k).xcvr ∈ enabledTurns (r m) := fun m hm => by
    obtain ⟨hunder, hx, -⟩ := hwaits hm
    rw [← hx]
    exact hunder.dueTurn_enabled
  obtain ⟨m, hm, htaken⟩ := hfair _ (dueTurn_fair _) k henabled
  obtain ⟨hunder, hx, hw⟩ := hwaits hm
  have hlive := hunder.running_succ hrun hnr
  have hadv := hunder.advances_of_dueTurn (hrun m) hlive (by rwa [hx])
  exact hno (m + 1) (hw ▸ hunder.nearer (hrun m) (hnr m) hlive hadv)

/-- Under weak fairness a command under way finishes, by induction on the work left. -/
theorem Underway.finishes (h : Underway op n (r k)) (hrun : IsRun r) (hnr : NoReset r) (hfair : WeaklyFair r) :
    ∃ m, Finished op n (r m) := by
  induction hw : workLeft (r k).eng (r k).xcvr using Nat.strong_induction_on generalizing k with
  | _ w ih =>
    obtain ⟨m, hfin | ⟨hunder, hless⟩⟩ := h.exists_nearer hrun hnr hfair
    · exact ⟨m, hfin⟩
    · exact ih _ (hw ▸ hless) hunder rfl

end Runs

/-! ### Polling without fairness (R61, R96, V-XCHG-4) -/

/-- With the engine alone given turns and nothing received, S_WAITRX polls as long as the schedule says so. -/
theorem run_polls {s : State} {k : Nat} (hrun : s.Running) (hk : s.stuck = false) (hph : s.eng.phase = .sWaitRx)
    (hq : s.xcvr.rxq = []) (hts : s.turns = List.replicate k .engine) :
    ∃ t : State, Sys2Proof.core.run k s = .next t ∧ t.eng = s.eng ∧ t.xcvr = s.xcvr ∧ t.faults = [] := by
  induction k generalizing s with
  | zero => exact ⟨s, rfl, rfl, rfl, hrun.1⟩
  | succ k ih =>
    rw [List.replicate_succ] at hts
    have hturn : s.EngineTurn (List.replicate k .engine) :=
      ⟨⟨hrun, nextTurn_cons hts, congrArg List.tail hts⟩, hk, busy_eq_true.2 (by simp [hph])⟩
    have hpoll := step_sWaitRx_of_nil hturn hph hq
    rw [run_succ (M := Sys2Proof.core) hpoll k]
    exact ih (s := { s.advance _ with xifResp := _ }) hrun hk hph hq rfl

/-- Settles O34: a command under way finishes, by induction on the work it has left; and the polls of S_WAITRX go on, by
induction on their number. -/
theorem commandsCompleteUnderFairness : Obligations.CommandsCompleteUnderFairness := by
  refine ⟨fun r hrun hfair hnr hocc hlive hb hk hadm => ?_, fun s k => run_polls⟩
  have hunder : Underway (r 0).eng.op (r 0).eng.count (r 0) := ⟨hocc, hlive, hb, hk, hadm, rfl, rfl⟩
  obtain ⟨m, hfin⟩ := hunder.finishes hrun hnr hfair
  exact ⟨m, hfin.idle, hfin.done, hfin.quiescent, hfin.result⟩

end Sys2Proof.Machine
end
